-- ==== Sys2Proof/Word.lean ====
section
/-! DEFINITION. The words of the Bayer frame unpacker (BFU) by the widths spec/10_state.md gives them. -/

namespace Sys2Proof

/-- A byte, bit 7 the most significant (R10). -/
abbrev Byte := BitVec 8

/-- A sample or plane word: 10 bits, unsigned (R31, R86; D4). -/
abbrev Sample := BitVec 10

/-- The length register's width LEN_W = 32, also `base`'s and an offset's into IN (R25, R28). -/
abbrev LenWord := BitVec 32

/-- The frame offset register's width, 23 bits (R23). -/
abbrev OffWord := BitVec 23

end Sys2Proof
end

