-- ==== Sys2Proof/Config.lean ====
section
/-! DEFINITION. What is fixed for the machine: the constants of R6 as the configuration record R8 allows, the marker,
the three planes and their numbers (R7, D5), and the free values that stand where the spec leaves a value open. -/

namespace Sys2Proof

/-- The constants of R6 that R8 lets a record hold. GROUP_BYTES = 5, LANES = 4, SAMPLE_BITS = 10, MARKER_BYTES = 4 and
PLANES = 3 are the same in every record (CFG2, CFG4, CFG6), so they are plain numerals in the definitions. -/
structure Geometry where
  frameBytes   : Nat
  headerBytes  : Nat
  rowsTotal    : Nat
  rowStride    : Nat
  rowsKept     : Nat
  rowBytesKept : Nat
  deriving DecidableEq, Repr

/-- The hardware: the one instance of R6. -/
def Geometry.bfu : Geometry where
  frameBytes   := 6404096
  headerBytes  := 32768
  rowsTotal    := 1952
  rowStride    := 3264
  rowsKept     := 1944
  rowBytesKept := 3240

/-- The record TOY of D19. It describes no hardware; only the tests use it. -/
def Geometry.toy : Geometry where
  frameBytes   := 44
  headerBytes  := 8
  rowsTotal    := 3
  rowStride    := 12
  rowsKept     := 2
  rowBytesKept := 10

/-- DATA_BYTES, the size of the data area (R6). -/
def Geometry.dataBytes (G : Geometry) : Nat := G.rowsTotal * G.rowStride

/-- PAD_ROWS, the rows dropped (R6). -/
def Geometry.padRows (G : Geometry) : Nat := G.rowsTotal - G.rowsKept

/-- ROW_PAD_BYTES, the bytes trimmed from a kept row (R6). -/
def Geometry.rowPadBytes (G : Geometry) : Nat := G.rowStride - G.rowBytesKept

/-- GROUPS_PER_ROW (R6). -/
def Geometry.groupsPerRow (G : Geometry) : Nat := G.rowBytesKept / 5

/-- COLS, samples per row (R6, CFG5). -/
def Geometry.cols (G : Geometry) : Nat := G.rowBytesKept / 5 * 4

/-- The number of plane words, 3 planes of `rowsKept` by `cols` (R31). -/
def Geometry.planeWords (G : Geometry) : Nat := 3 * G.rowsKept * G.cols

/-- CFG1 to CFG4 of R8 (CFG5 and CFG6 hold by definition here). -/
def Geometry.ok (G : Geometry) : Bool :=
  G.frameBytes == G.headerBytes + G.rowsTotal * G.rowStride
    && decide (4 ≤ G.headerBytes)
    && decide (G.rowsKept ≤ G.rowsTotal) && decide (G.rowBytesKept ≤ G.rowStride)
    && G.rowBytesKept % 5 == 0

/-- MARKER, the bytes `B`,`R`,`C`,`M` in buffer order (R6; their ASCII codes are G1 of the spec, log 12). -/
def marker : List Byte := [0x42, 0x52, 0x43, 0x4D]

/-- The three planes (R31). -/
inductive Plane where
  | red
  | green
  | blue
  deriving DecidableEq, Repr

/-- The plane's number: Red 0, Green 1, Blue 2 (R7, D5). -/
def Plane.index : Plane → Nat
  | .red   => 0
  | .green => 1
  | .blue  => 2

/-- What `base` holds after a RESET operation: unspecified (R220, U7). A free value (log 8). -/
opaque Config.freeBase : Nat → LenWord

/-- What D[k] holds after a RESET operation: unspecified (R220, U7). A free value of the draw and the lane (log 8). -/
opaque Config.freeHeld : Nat → Nat → Byte

/-- The word a PLANE_READ returns while STATUS = BUSY: unspecified (R225, U5). A free value (log 9). -/
opaque Config.freePlaneWord : Nat → Sample

/-- The code STATUS takes at a step of a decode during which the host wrote IN or LEN: unspecified (R224, R226, U4). A free
value (log 10). -/
opaque Config.freeStatusCode : Nat → BitVec 2

/-- The code CAUSE takes at such a step (U4). A free value (log 10). -/
opaque Config.freeCauseCode : Nat → BitVec 2

end Sys2Proof
end

