-- ==== Sys2Proof/Syntax.lean ====
section
/-! DEFINITION. The operations of the block: one constructor of `Instr` for each row of spec/opcode_table.json (R91). -/

namespace Sys2Proof

/-- The operations. An operation without operands reads what it works on from the state (its position `off`, the byte at
`base + off`, `LEN`); the others carry the operands their rules list. -/
inductive Instr where
  /-- START (R170). -/
  | start
  /-- FRAME_EXTRACT (R110). -/
  | frameExtract
  /-- MARKER_CHECK (R111). -/
  | markerCheck
  /-- HEADER_SKIP (R112). -/
  | headerSkip
  /-- ROW_FRAME (R113). -/
  | rowFrame
  /-- FRAMING_CHECK (R114). -/
  | framingCheck
  /-- ROW_DROP (R115). -/
  | rowDrop
  /-- ROW_TRIM (R116). -/
  | rowTrim
  /-- DATA_LATCH (R130). -/
  | dataLatch
  /-- GROUP_EMIT (R131). -/
  | groupEmit
  /-- WIDEN of a byte (R132). -/
  | widen (b : Byte)
  /-- UNPACK_LOW of a widened data byte, a widened packing byte and a lane (R133). -/
  | unpackLow (wk w4 : Sample) (k : Nat)
  /-- PACK_REMOVE of a group index and a lane (R134). -/
  | packRemove (g k : Nat)
  /-- PLANE_ALLOC at a coordinate: the two planes not selected there (R150). -/
  | planeAlloc (r c : Nat)
  /-- PLANE_SELECT at (even row, even column) (R151). -/
  | planeSelectGreenE
  /-- PLANE_SELECT at (even row, odd column) (R151). -/
  | planeSelectBlue
  /-- PLANE_SELECT at (odd row, even column) (R151). -/
  | planeSelectRed
  /-- PLANE_SELECT at (odd row, odd column) (R151). -/
  | planeSelectGreenO
  /-- PLANE_WRITE of a sample at a coordinate (R153). -/
  | planeWrite (r c : Nat) (v : Sample)
  /-- STEP, the block's step function (R173). -/
  | step
  /-- FINISH (R175). -/
  | finish
  /-- DECODE, the whole decode (R171). -/
  | decode
  /-- LEN_WRITE (R177). -/
  | lenWrite (v : LenWord)
  /-- LEN_READ (R178). -/
  | lenRead
  /-- IN_WRITE of a byte at an offset (R179). -/
  | inWrite (a : LenWord) (b : Byte)
  /-- STATUS_READ (R180). -/
  | statusRead
  /-- CAUSE_READ (R181). -/
  | causeRead
  /-- PLANE_READ of a plane number, a row and a column (R182). -/
  | planeRead (p r c : Nat)
  /-- RESET (R220). -/
  | reset
  deriving DecidableEq, Repr

/-- The operations that are selected by name: all but MARKER_CHECK and the four PLANE_SELECT rows, which have a bit
pattern of their own (R91). -/
inductive Opcode where
  | start | frameExtract | headerSkip | rowFrame | framingCheck | rowDrop | rowTrim | dataLatch | groupEmit
  | widen | unpackLow | packRemove | planeAlloc | planeWrite | step | finish | decode | lenWrite | lenRead
  | inWrite | statusRead | causeRead | planeRead | reset
  deriving DecidableEq, Repr

/-- Why a sequence of bytes is no operation. -/
inductive DecodeError where
  /-- There is no byte. -/
  | empty
  /-- A name is not ended by a zero byte. -/
  | unterminatedName
  /-- The name is none of the operations'. -/
  | unknownName
  /-- The bytes end before the operation's operands do. -/
  | missingOperand
  /-- A field of 10 bits carries a number above 1023. -/
  | badOperand
  deriving DecidableEq, Repr

/-- What a decoder answers: an operation and the bytes after it, or a rejection by name. -/
inductive Decoded where
  | op (i : Instr) (rest : List Byte)
  | reject (e : DecodeError)
  deriving DecidableEq, Repr

end Sys2Proof
end

