-- ==== Sys2Proof/Machine/Operands.lean ====
section
/-! DEFINITION. How operands are formed: row, byte column, group and lane from the frame offset (R24), the fields of the
packing byte and the sample (R85 to R87), the sample column (R88), the parity code (R89). Every function here is
pure and works for any geometry. -/

namespace Sys2Proof.Machine

/-! ## Positions -/

/-- The row of a frame offset of the data area (R24). -/
def rowAt (G : Geometry) (off : Nat) : Nat := (off - G.headerBytes) / G.rowStride

/-- The byte column of a frame offset of the data area (R24). -/
def bcolAt (G : Geometry) (off : Nat) : Nat := (off - G.headerBytes) % G.rowStride

/-- The group of a kept byte (R24). -/
def groupAt (G : Geometry) (off : Nat) : Nat := bcolAt G off / 5

/-- The lane of a kept byte, counted from the start of its row (R24, R113). -/
def laneAt (G : Geometry) (off : Nat) : Nat := bcolAt G off % 5

/-- A(r, g, k): the frame offset of lane `k` of group `g` of kept row `r` (R117). -/
def keptOffset (G : Geometry) (r g k : Nat) : Nat := G.headerBytes + G.rowStride * r + 5 * g + k

/-- MARKER[off] for off in 0..3 (R111). -/
def markerByte (off : Nat) : Byte := marker.getD off 0

/-- FRAMING_CHECK's condition: the data area is exactly ROWS_TOTAL rows (R114). -/
def framingOk (G : Geometry) : Bool := G.frameBytes - G.headerBytes == G.rowsTotal * G.rowStride

/-! ## Samples -/

/-- WIDEN: zero-extend to 10 bits, then shift left by 2 (R132). -/
def widenByte (b : Byte) : Sample := b.setWidth 10 <<< 2

/-- UNPACK_LOW on widened words, the source's form: OR in the pair found by shifting right by (4 - k) * 2 (R133). -/
def unpackPair (wk w4 : Sample) (k : Nat) : Sample := wk ||| ((w4 >>> ((4 - k) * 2)) &&& 3)

/-- PACK_REMOVE: the sample column of a lane, none for the packing byte (R134). -/
def sampleColumn (g k : Nat) : Option Nat := if k < 4 then some (4 * g + k) else none

/-- LOk, the pair of the raw packing byte that belongs to lane `k`, as a number (R85). -/
def lowPair (p : Byte) (k : Nat) : Nat := p.toNat / 2 ^ (6 - 2 * k) % 4

/-- The closed form of a sample on the raw bytes: 4 * B + LOk (R133, R135). -/
def sampleValue (b p : Byte) (k : Nat) : Sample := BitVec.ofNat 10 (4 * b.toNat + lowPair p k)

/-- The packing byte that packs four samples (R136). -/
def packLow (v0 v1 v2 v3 : Sample) : Byte :=
  BitVec.ofNat 8 (64 * (v0.toNat % 4) + 16 * (v1.toNat % 4) + 4 * (v2.toNat % 4) + v3.toNat % 4)

/-- The data byte of a sample (R136). -/
def packHigh (v : Sample) : Byte := BitVec.ofNat 8 (v.toNat / 4)

/-! ## Planes -/

/-- PARITY2: bit 1 the row's parity, bit 0 the column's (R89). -/
def parityCode (r c : Nat) : BitVec 2 := BitVec.ofNat 2 (2 * (r % 2) + c % 2)

/-- The plane of a parity code (R89, R151). -/
def planeOfParity (q : BitVec 2) : Plane :=
  match q.toNat with
  | 0 => .green
  | 1 => .blue
  | 2 => .red
  | _ => .green

/-- SEL(r, c) (R151). -/
def sel (r c : Nat) : Plane := planeOfParity (parityCode r c)

/-- The model's internal key of a plane word (p, r, c): row-major within a plane, planes in order. PLANE_LAYOUT is
OPEN (D6) and nothing observable depends on the key (log 23). -/
def planeKey (G : Geometry) (p r c : Nat) : Nat := (p * G.rowsKept + r) * G.cols + c

/-- A coordinate of the planes: r in 0..ROWS_KEPT-1, c in 0..COLS-1 (R31). -/
def isCoordinate (G : Geometry) (r c : Nat) : Bool := decide (r < G.rowsKept) && decide (c < G.cols)

end Sys2Proof.Machine
end

