-- ==== Sys2Proof/WellFormed.lean ====
section
/-! DEFINITION. Which operations are well-formed: the ranges their rules give their operands. -/

namespace Sys2Proof

/-- A widened word: bits 1..0 are zero (R132). -/
def isWidened (w : Sample) : Bool := w.toNat % 4 == 0

/-- The operand ranges of R133 (widened words, k in 0..3), R134 (g in 0..647, k in 0..4), R150 and R153 (a coordinate of
the plane space) and R182 (p in 0..2 and such a coordinate); every other operation admits every operand. -/
def Instr.wellFormed : Instr → Bool
  | .unpackLow wk w4 k => isWidened wk && isWidened w4 && decide (k < 4)
  | .packRemove g k => decide (g < Geometry.bfu.groupsPerRow) && decide (k < 5)
  | .planeAlloc r c => Machine.isCoordinate Geometry.bfu r c
  | .planeWrite r c _ => Machine.isCoordinate Geometry.bfu r c
  | .planeRead p r c => decide (p < 3) && Machine.isCoordinate Geometry.bfu r c
  | .start | .frameExtract | .markerCheck | .headerSkip | .rowFrame | .framingCheck | .rowDrop | .rowTrim
  | .dataLatch | .groupEmit | .widen _ | .planeSelectGreenE | .planeSelectBlue | .planeSelectRed
  | .planeSelectGreenO | .step | .finish | .decode | .lenWrite _ | .lenRead | .inWrite _ _ | .statusRead
  | .causeRead | .reset => true

end Sys2Proof
end

