-- ==== Sys2Proof/Decode.lean ====
section
/-! DEFINITION. Decoding. The block selects an operation in three ways (R91): by where it is in the frame (the operation
map, `stepOperation` and `rowOperation`), by a bit pattern (the marker word and the parity code), and, for what the host
presents, by name (R80: the HOST format has no bit pattern). The byte form of a name is the model's own, the name in
ASCII, a zero byte, then the operands, most significant byte first: DESIGN CHOICE for the OPEN parameter HOST_BUS, log 1.
After the decoder stands the encoder, written from the same tables. -/

namespace Sys2Proof

/-! ## Selection by position -/

/-- The operation a block step performs at frame offset `off` (R172, R173). -/
def stepOperation (G : Geometry) (off : Nat) : Instr :=
  if off = G.frameBytes then .finish
  else if off < 4 then .markerCheck
  else if off < G.headerBytes then .headerSkip
  else .rowFrame

/-- The operation ROW_FRAME dispatches to at a frame offset of the data area; the row test comes first (R113). -/
def rowOperation (G : Geometry) (off : Nat) : Instr :=
  if G.rowsKept ≤ Machine.rowAt G off then .rowDrop
  else if G.rowBytesKept ≤ Machine.bcolAt G off then .rowTrim
  else if Machine.bcolAt G off % 5 < 4 then .dataLatch
  else .groupEmit

/-! ## Selection by pattern and by name -/

/-- The PLANE_SELECT row of a parity code (R89, R151). -/
def parityRow (q : BitVec 2) : Instr :=
  match q.toNat with
  | 0 => .planeSelectGreenE
  | 1 => .planeSelectBlue
  | 2 => .planeSelectRed
  | _ => .planeSelectGreenO

/-- The names of the operations in ASCII (R91, R95). -/
def Opcode.name : Opcode → List Byte
  | .start => [0x53, 0x54, 0x41, 0x52, 0x54]  -- START
  | .frameExtract => [0x46, 0x52, 0x41, 0x4D, 0x45, 0x5F, 0x45, 0x58, 0x54, 0x52, 0x41, 0x43, 0x54]  -- FRAME_EXTRACT
  | .headerSkip => [0x48, 0x45, 0x41, 0x44, 0x45, 0x52, 0x5F, 0x53, 0x4B, 0x49, 0x50]  -- HEADER_SKIP
  | .rowFrame => [0x52, 0x4F, 0x57, 0x5F, 0x46, 0x52, 0x41, 0x4D, 0x45]  -- ROW_FRAME
  | .framingCheck => [0x46, 0x52, 0x41, 0x4D, 0x49, 0x4E, 0x47, 0x5F, 0x43, 0x48, 0x45, 0x43, 0x4B]  -- FRAMING_CHECK
  | .rowDrop => [0x52, 0x4F, 0x57, 0x5F, 0x44, 0x52, 0x4F, 0x50]  -- ROW_DROP
  | .rowTrim => [0x52, 0x4F, 0x57, 0x5F, 0x54, 0x52, 0x49, 0x4D]  -- ROW_TRIM
  | .dataLatch => [0x44, 0x41, 0x54, 0x41, 0x5F, 0x4C, 0x41, 0x54, 0x43, 0x48]  -- DATA_LATCH
  | .groupEmit => [0x47, 0x52, 0x4F, 0x55, 0x50, 0x5F, 0x45, 0x4D, 0x49, 0x54]  -- GROUP_EMIT
  | .widen => [0x57, 0x49, 0x44, 0x45, 0x4E]  -- WIDEN
  | .unpackLow => [0x55, 0x4E, 0x50, 0x41, 0x43, 0x4B, 0x5F, 0x4C, 0x4F, 0x57]  -- UNPACK_LOW
  | .packRemove => [0x50, 0x41, 0x43, 0x4B, 0x5F, 0x52, 0x45, 0x4D, 0x4F, 0x56, 0x45]  -- PACK_REMOVE
  | .planeAlloc => [0x50, 0x4C, 0x41, 0x4E, 0x45, 0x5F, 0x41, 0x4C, 0x4C, 0x4F, 0x43]  -- PLANE_ALLOC
  | .planeWrite => [0x50, 0x4C, 0x41, 0x4E, 0x45, 0x5F, 0x57, 0x52, 0x49, 0x54, 0x45]  -- PLANE_WRITE
  | .step => [0x53, 0x54, 0x45, 0x50]  -- STEP
  | .finish => [0x46, 0x49, 0x4E, 0x49, 0x53, 0x48]  -- FINISH
  | .decode => [0x44, 0x45, 0x43, 0x4F, 0x44, 0x45]  -- DECODE
  | .lenWrite => [0x4C, 0x45, 0x4E, 0x5F, 0x57, 0x52, 0x49, 0x54, 0x45]  -- LEN_WRITE
  | .lenRead => [0x4C, 0x45, 0x4E, 0x5F, 0x52, 0x45, 0x41, 0x44]  -- LEN_READ
  | .inWrite => [0x49, 0x4E, 0x5F, 0x57, 0x52, 0x49, 0x54, 0x45]  -- IN_WRITE
  | .statusRead => [0x53, 0x54, 0x41, 0x54, 0x55, 0x53, 0x5F, 0x52, 0x45, 0x41, 0x44]  -- STATUS_READ
  | .causeRead => [0x43, 0x41, 0x55, 0x53, 0x45, 0x5F, 0x52, 0x45, 0x41, 0x44]  -- CAUSE_READ
  | .planeRead => [0x50, 0x4C, 0x41, 0x4E, 0x45, 0x5F, 0x52, 0x45, 0x41, 0x44]  -- PLANE_READ
  | .reset => [0x52, 0x45, 0x53, 0x45, 0x54]  -- RESET

/-- Every operation that has a name. -/
def Opcode.all : List Opcode :=
  [.start, .frameExtract, .headerSkip, .rowFrame, .framingCheck, .rowDrop, .rowTrim,
    .dataLatch, .groupEmit, .widen, .unpackLow, .packRemove, .planeAlloc, .planeWrite,
    .step, .finish, .decode, .lenWrite, .lenRead, .inWrite, .statusRead, .causeRead, .planeRead, .reset]

/-- The operation of a name. -/
def Opcode.ofName (n : List Byte) : Option Opcode := Opcode.all.find? (fun o => o.name == n)

/-- A name runs to the first zero byte. -/
def takeName : List Byte → Option (List Byte × List Byte)
  | [] => none
  | b :: bs =>
    if b = 0 then some ([], bs)
    else match takeName bs with
      | some (n, rest) => some (b :: n, rest)
      | none => none

/-- Two bytes as a number, the first the more significant. -/
def num2 (h l : Byte) : Nat := h.toNat * 256 + l.toNat

/-- Four bytes as a number, the first the most significant. -/
def num4 (b3 b2 b1 b0 : Byte) : Nat := ((b3.toNat * 256 + b2.toNat) * 256 + b1.toNat) * 256 + b0.toNat

/-- The operands of a named operation, read from the bytes after its name. -/
def operandsOf (o : Opcode) (bs : List Byte) : Decoded :=
  match o with
  | .start => .op .start bs
  | .frameExtract => .op .frameExtract bs
  | .headerSkip => .op .headerSkip bs
  | .rowFrame => .op .rowFrame bs
  | .framingCheck => .op .framingCheck bs
  | .rowDrop => .op .rowDrop bs
  | .rowTrim => .op .rowTrim bs
  | .dataLatch => .op .dataLatch bs
  | .groupEmit => .op .groupEmit bs
  | .widen =>
    match bs with
    | b :: rest => .op (.widen b) rest
    | _ => .reject .missingOperand
  | .unpackLow =>
    match bs with
    | a1 :: a0 :: b1 :: b0 :: k1 :: k0 :: rest =>
      if num2 a1 a0 < 1024 ∧ num2 b1 b0 < 1024 then
        .op (.unpackLow (BitVec.ofNat 10 (num2 a1 a0)) (BitVec.ofNat 10 (num2 b1 b0)) (num2 k1 k0)) rest
      else .reject .badOperand
    | _ => .reject .missingOperand
  | .packRemove =>
    match bs with
    | g1 :: g0 :: k1 :: k0 :: rest => .op (.packRemove (num2 g1 g0) (num2 k1 k0)) rest
    | _ => .reject .missingOperand
  | .planeAlloc =>
    match bs with
    | r1 :: r0 :: c1 :: c0 :: rest => .op (.planeAlloc (num2 r1 r0) (num2 c1 c0)) rest
    | _ => .reject .missingOperand
  | .planeWrite =>
    match bs with
    | r1 :: r0 :: c1 :: c0 :: v1 :: v0 :: rest =>
      if num2 v1 v0 < 1024 then
        .op (.planeWrite (num2 r1 r0) (num2 c1 c0) (BitVec.ofNat 10 (num2 v1 v0))) rest
      else .reject .badOperand
    | _ => .reject .missingOperand
  | .step => .op .step bs
  | .finish => .op .finish bs
  | .decode => .op .decode bs
  | .lenWrite =>
    match bs with
    | b3 :: b2 :: b1 :: b0 :: rest => .op (.lenWrite (BitVec.ofNat 32 (num4 b3 b2 b1 b0))) rest
    | _ => .reject .missingOperand
  | .lenRead => .op .lenRead bs
  | .inWrite =>
    match bs with
    | b3 :: b2 :: b1 :: b0 :: b :: rest => .op (.inWrite (BitVec.ofNat 32 (num4 b3 b2 b1 b0)) b) rest
    | _ => .reject .missingOperand
  | .statusRead => .op .statusRead bs
  | .causeRead => .op .causeRead bs
  | .planeRead =>
    match bs with
    | p1 :: p0 :: r1 :: r0 :: c1 :: c0 :: rest =>
      .op (.planeRead (num2 p1 p0) (num2 r1 r0) (num2 c1 c0)) rest
    | _ => .reject .missingOperand
  | .reset => .op .reset bs

/-- The decoder, total on any bytes. A first byte below 0x20 carries a parity code in bits 1..0 (the PARITY2 mask is
0b11, log 25); the four marker bytes are MARKER_CHECK's word; anything else is a name. -/
def decode : List Byte → Decoded
  | [] => .reject .empty
  | b :: bs =>
    if b.toNat < 32 then .op (parityRow (b.setWidth 2)) bs
    else if (b :: bs).take 4 = marker then .op .markerCheck ((b :: bs).drop 4)
    else match takeName (b :: bs) with
      | none => .reject .unterminatedName
      | some (n, rest) =>
        match Opcode.ofName n with
        | none => .reject .unknownName
        | some o => operandsOf o rest

/-! ## The encoder -/

/-- A number as two bytes, the first the more significant. -/
def bytes2 (n : Nat) : List Byte := [BitVec.ofNat 8 (n / 256), BitVec.ofNat 8 n]

/-- A number as four bytes, the first the most significant. -/
def bytes4 (n : Nat) : List Byte :=
  [BitVec.ofNat 8 (n / 16777216), BitVec.ofNat 8 (n / 65536), BitVec.ofNat 8 (n / 256), BitVec.ofNat 8 n]

/-- A name, its end, and the operands' bytes. -/
def named (o : Opcode) (operands : List Byte) : List Byte := o.name ++ 0 :: operands

/-- The bytes of an operation. -/
def encode : Instr → List Byte
  | .start => named .start []
  | .frameExtract => named .frameExtract []
  | .markerCheck => marker
  | .headerSkip => named .headerSkip []
  | .rowFrame => named .rowFrame []
  | .framingCheck => named .framingCheck []
  | .rowDrop => named .rowDrop []
  | .rowTrim => named .rowTrim []
  | .dataLatch => named .dataLatch []
  | .groupEmit => named .groupEmit []
  | .widen b => named .widen [b]
  | .unpackLow wk w4 k => named .unpackLow (bytes2 wk.toNat ++ bytes2 w4.toNat ++ bytes2 k)
  | .packRemove g k => named .packRemove (bytes2 g ++ bytes2 k)
  | .planeAlloc r c => named .planeAlloc (bytes2 r ++ bytes2 c)
  | .planeSelectGreenE => [0x00]
  | .planeSelectBlue => [0x01]
  | .planeSelectRed => [0x02]
  | .planeSelectGreenO => [0x03]
  | .planeWrite r c v => named .planeWrite (bytes2 r ++ bytes2 c ++ bytes2 v.toNat)
  | .step => named .step []
  | .finish => named .finish []
  | .decode => named .decode []
  | .lenWrite v => named .lenWrite (bytes4 v.toNat)
  | .lenRead => named .lenRead []
  | .inWrite a b => named .inWrite (bytes4 a.toNat ++ [b])
  | .statusRead => named .statusRead []
  | .causeRead => named .causeRead []
  | .planeRead p r c => named .planeRead (bytes2 p ++ bytes2 r ++ bytes2 c)
  | .reset => named .reset []

/-! ## What the host may present -/

/-- The operations the port takes. The host can do START, RESET, the six accesses and the sequence DECODE, "the complete
list of things the host can do to the block" (spec 43, section 4); STEP in the port hands the turn to the block (log 2);
the value-only operations WIDEN, UNPACK_LOW, PACK_REMOVE and PLANE_SELECT change no state of the spec (log 3). The
block's own operations, which the block performs by position, are none of the host's. -/
def Instr.presentable : Instr → Bool
  | .start | .reset | .decode | .step | .lenWrite _ | .lenRead | .inWrite _ _ | .statusRead | .causeRead
  | .planeRead _ _ _ | .widen _ | .unpackLow _ _ _ | .packRemove _ _ | .planeSelectGreenE | .planeSelectBlue
  | .planeSelectRed | .planeSelectGreenO => true
  | .frameExtract | .markerCheck | .headerSkip | .rowFrame | .framingCheck | .rowDrop | .rowTrim | .dataLatch
  | .groupEmit | .planeAlloc _ _ | .planeWrite _ _ _ | .finish => false

/-- The smallest frame offset at which a block step performs an operation (R91). -/
def firstOffset : Instr → Option Nat
  | .markerCheck => some 0
  | .headerSkip => some 4
  | .rowFrame | .framingCheck | .dataLatch => some 32768
  | .groupEmit | .planeAlloc _ _ | .planeWrite _ _ _ => some 32772
  | .rowTrim => some 36008
  | .rowDrop => some 6377984
  | .finish => some 6404096
  | .start | .frameExtract | .widen _ | .unpackLow _ _ _ | .packRemove _ _ | .planeSelectGreenE
  | .planeSelectBlue | .planeSelectRed | .planeSelectGreenO | .step | .decode | .lenWrite _ | .lenRead
  | .inWrite _ _ | .statusRead | .causeRead | .planeRead _ _ _ | .reset => none

/-! ## Words numbered as the opcode table numbers them -/

/-- `n` bytes of a number, the most significant first. -/
def bytesMsb : Nat → Nat → List Byte
  | 0, _ => []
  | n + 1, w => BitVec.ofNat 8 (w / 256 ^ n) :: bytesMsb n w

/-- A table word of `nbits` bits as bytes: the marker word has its lowest offset in bits 31:24, so the most significant
byte comes first; zeros follow, as operand bytes. -/
def layoutWord (nbits w : Nat) : List Byte := bytesMsb ((nbits + 7) / 8) w ++ List.replicate 16 0

/-- The operation the decoder reads from a word of the opcode table. -/
def decodeTableWord (nbits w : Nat) : Option Instr :=
  match decode (layoutWord nbits w) with
  | .op i _ => some i
  | .reject _ => none

end Sys2Proof
end

