-- ==== Sys2Proof/Machine/State.lean ====
section
/-! DEFINITION. The state of the machine, plain data: every element of R34, and five fields that are the model's own
(`port`, `result`, `draws`, `outcomeOpen`, `planeOpen`). INVENTORY.md lists each with its rule and its reset value. -/

namespace Sys2Proof.Machine

/-- STATUS.STATE (R26). -/
inductive Status where
  | idle
  | busy
  | done
  | error
  deriving DecidableEq, Repr

/-- CAUSE.CODE (R27). -/
inductive Cause where
  | none
  | shortBuffer
  | badMarker
  | badFraming
  deriving DecidableEq, Repr

/-- The holding registers D[0..3] (R21). -/
structure Held where
  d0 : Byte
  d1 : Byte
  d2 : Byte
  d3 : Byte
  deriving DecidableEq, Repr

/-- The value an operation returned: what the rules write as `return …`, or the value of a pure operation. The model's
own (log 3). -/
inductive Result where
  /-- Nothing has been returned yet. -/
  | none
  /-- LEN_READ's (R178). -/
  | len (v : LenWord)
  /-- STATUS_READ's two bits (R180). -/
  | status (v : BitVec 2)
  /-- CAUSE_READ's two bits (R181). -/
  | cause (v : BitVec 2)
  /-- PLANE_READ's word (R182). -/
  | word (v : Sample)
  /-- WIDEN's and UNPACK_LOW's word (R132, R133). -/
  | sample (v : Sample)
  /-- PACK_REMOVE's column, or none for the packing byte (R134). -/
  | column (c : Option Nat)
  /-- PLANE_SELECT's plane (R151). -/
  | plane (p : Plane)
  deriving DecidableEq, Repr

/-- The contents of IN: listed bytes, in the canonical form `Memory.wf` of Ops.lean (R30). -/
abbrev Memory := List Host.Cell

/-- The contents of PLANE: listed words by internal key, in the canonical form `PlaneMem.wf` of Ops.lean (R31). -/
abbrev PlaneMem := List (Nat × Sample)

/-- What stops the machine. -/
inductive Fault where
  /-- A byte of IN at or beyond LEN was to be read (R13: `MemRead` requires a < LEN). Raised by MARKER_CHECK, ROW_FRAME,
  DATA_LATCH, GROUP_EMIT, STEP and DECODE in states no run reaches (R173). Safe. -/
  | inOutOfBounds
  /-- PLANE_READ of a word that holds no value (R34, R182; D25). Raised by PLANE_READ. Safe. -/
  | planeNoValue
  deriving DecidableEq, Repr

/-- What the model gives no meaning. -/
inductive Refusal where
  /-- An operation whose meaning is not written yet. Raised by `exec` only. Safe. -/
  | notModelled (mnemonic : String)
  /-- The bytes at the port are no operation. Raised by `step`. Safe. -/
  | undecodable (e : DecodeError)
  /-- The port presents an operation the host cannot perform (spec 43, section 4). Raised by `step`. Safe. -/
  | notAHostCommand
  /-- A block operation where STATUS and `off` select another one (R91, R172). Raised by the block's operations. Safe. -/
  | notSelected
  /-- A triple or coordinate outside the plane space (R31; U6). Raised by PLANE_READ, PLANE_WRITE, PLANE_ALLOC. Safe. -/
  | noSuchPlaneWord
  /-- A lane or group outside its rule's range (R133, R134). Raised by UNPACK_LOW and PACK_REMOVE. Safe. -/
  | noSuchLane
  deriving DecidableEq, Repr

/-- The state of the machine. -/
structure State where
  /-- STATUS (R26). -/
  status : Status
  /-- CAUSE (R27). -/
  cause : Cause
  /-- LEN (R25). -/
  len : LenWord
  /-- The offset in IN of the frame region's first byte (R28). Hidden. -/
  base : LenWord
  /-- The frame offset register, the block's program counter (R23). Hidden. -/
  off : OffWord
  /-- D[0..3] (R21). Hidden. -/
  held : Held
  /-- IN (R30). -/
  inp : Memory
  /-- PLANE (R31). -/
  plane : PlaneMem
  /-- The host's operations presented and not yet taken (log 1). The model's own. -/
  port : List Byte
  /-- The value last returned (log 3). The model's own. -/
  result : Result
  /-- How many free values have been drawn (log 8). The model's own. -/
  draws : Nat
  /-- The host wrote IN or LEN during the running decode, so that its STATUS and CAUSE are open (U4, log 10). The model's
  own. -/
  outcomeOpen : Bool
  /-- PLANE holds the words of such a decode, so that every word of it is open (U4, log 10). The model's own. -/
  planeOpen : Bool
  deriving DecidableEq, Repr

/-- The machine right after reset (R34, R220). `base` and D hold no value the spec states: zero, DESIGN CHOICE, log 4 and
log 5. IN is host memory, nothing listed (log 6); no plane word holds a value. -/
def State.reset : State where
  status := .idle
  cause  := .none
  len    := 0
  base   := 0
  off    := 0
  held   := { d0 := 0, d1 := 0, d2 := 0, d3 := 0 }
  inp    := []
  plane  := []
  port   := []
  result := .none
  draws  := 0
  outcomeOpen := false
  planeOpen   := false

end Sys2Proof.Machine
end

