-- ==== Sys2Proof/Machine/Flags.lean ====
section
/-! DEFINITION. The codes of STATUS and CAUSE and the two level outputs, the block's only flags (R26, R27). -/

namespace Sys2Proof.Machine

/-- The two bits of STATUS (R26). -/
def statusCode : Status → BitVec 2
  | .idle  => 0
  | .busy  => 1
  | .done  => 2
  | .error => 3

/-- The two bits of CAUSE (R27). -/
def causeCode : Cause → BitVec 2
  | .none        => 0
  | .shortBuffer => 1
  | .badMarker   => 2
  | .badFraming  => 3

/-- The STATUS of a code (R26). -/
def statusOfCode (v : BitVec 2) : Status :=
  match v.toNat with
  | 0 => .idle
  | 1 => .busy
  | 2 => .done
  | _ => .error

/-- The CAUSE of a code (R27). -/
def causeOfCode (v : BitVec 2) : Cause :=
  match v.toNat with
  | 0 => .none
  | 1 => .shortBuffer
  | 2 => .badMarker
  | _ => .badFraming

/-- The level output `done` (R26, R200). -/
def doneOutput (s : State) : Bool := s.status == .done

/-- The level output `error` (R26, R200). -/
def errorOutput (s : State) : Bool := s.status == .error

end Sys2Proof.Machine
end

