-- ==== Sys2Proof/Machine/Ops.lean ====
section
/-! DEFINITION. The shared operations over memory and registers: `MemRead(IN, …)`, `MemWrite(PLANE, …)` and the other
primitives of R13, the memories' canonical form, and `raise FormatError` (R194). -/

namespace Sys2Proof.Machine

/-! ## Sparse memories: listed cells with strictly rising keys -/

/-- The listed value at a key. -/
def cellGet {w : Nat} : List (Nat × BitVec w) → Nat → Option (BitVec w)
  | [], _ => none
  | (k, v) :: m, a => if k = a then some v else cellGet m a

/-- List a value at a key, keeping the keys rising. -/
def cellSet {w : Nat} : List (Nat × BitVec w) → Nat → BitVec w → List (Nat × BitVec w)
  | [], a, v => [(a, v)]
  | (k, u) :: m, a, v =>
    if a < k then (a, v) :: (k, u) :: m
    else if a = k then (a, v) :: m
    else (k, u) :: cellSet m a v

/-- Remove what is listed at a key. -/
def cellErase {w : Nat} (m : List (Nat × BitVec w)) (a : Nat) : List (Nat × BitVec w) :=
  m.filter (fun x => x.1 != a)

/-- The keys rise strictly. -/
abbrev Rising {w : Nat} (m : List (Nat × BitVec w)) : Prop := m.Pairwise (fun x y => x.1 < y.1)

/-! ## IN -/

/-- What an unlisted byte of IN reads as. IN is host memory whose contents after reset the spec does not give (R30, R34):
zero, DESIGN CHOICE, log 6. -/
def unlistedByte : Byte := 0

/-- The byte at an offset of IN (R30). -/
def readIn (m : Memory) (a : Nat) : Byte := (cellGet m a).getD unlistedByte

/-- IN[a] <- b, in canonical form (R179). -/
def writeIn (m : Memory) (a : Nat) (b : Byte) : Memory :=
  if b = unlistedByte then cellErase m a else cellSet m a b

/-- The canonical form of IN: keys rise, no entry equals what an unlisted offset reads as, offsets fit 32 bits. -/
abbrev Memory.wf (m : Memory) : Prop :=
  Rising m ∧ ∀ x ∈ m, x.2 ≠ unlistedByte ∧ x.1 < 4294967296

/-- `MemRead(IN, a, 1)`: requires a < LEN (R13); no side effect. -/
def memReadIn (s : State) (a : Nat) : Option Byte :=
  if a < s.len.toNat then some (readIn s.inp a) else none

/-- The byte a block step reads, `MemRead(IN, base + off, 1)` (R23, R173). -/
def currentByte (s : State) : Option Byte := memReadIn s (s.base.toNat + s.off.toNat)

/-- Go on with the byte at `base + off`, or stop where `MemRead` has none. -/
def withCurrentByte (s : State) (k : Byte → Host.Outcome State Fault Refusal) : Host.Outcome State Fault Refusal :=
  match currentByte s with
  | some b => k b
  | none => .fault .inOutOfBounds

/-! ## PLANE -/

/-- The word of PLANE at (p, r, c), if it holds a value (R31, R34). -/
def readPlane (G : Geometry) (m : PlaneMem) (p r c : Nat) : Option Sample := cellGet m (planeKey G p r c)

/-- `MemWrite(PLANE, (p, r, c), 1, v)` (R13, R54). -/
def writePlane (G : Geometry) (m : PlaneMem) (p r c : Nat) (v : Sample) : PlaneMem :=
  cellSet m (planeKey G p r c) v

/-- The canonical form of PLANE: keys rise and each is a word of the plane space. -/
abbrev PlaneMem.wf (m : PlaneMem) : Prop :=
  Rising m ∧ ∀ x ∈ m, x.1 < Geometry.bfu.planeWords

/-- Zero at (r, c) in the two planes that are not selected there, PLANE_ALLOC in the sequencer's form (R150). -/
def clearUnselected (G : Geometry) (m : PlaneMem) (r c : Nat) : PlaneMem :=
  [Plane.red, Plane.green, Plane.blue].foldl
    (fun m p => if p = sel r c then m else writePlane G m p.index r c 0) m

/-- PLANE_WRITE: the sample in the selected plane, zero in the other two (R153). -/
def placeSample (G : Geometry) (m : PlaneMem) (r c : Nat) (v : Sample) : PlaneMem :=
  writePlane G (clearUnselected G m r c) (sel r c).index r c v

/-! ## Registers -/

/-- D[k] (R21). -/
def Held.get (h : Held) (k : Nat) : Byte :=
  match k with
  | 0 => h.d0
  | 1 => h.d1
  | 2 => h.d2
  | _ => h.d3

/-- D[k] <- b; the other three are untouched (R130). -/
def Held.set (h : Held) (k : Nat) (b : Byte) : Held :=
  match k with
  | 0 => { h with d0 := b }
  | 1 => { h with d1 := b }
  | 2 => { h with d2 := b }
  | _ => { h with d3 := b }

/-- `off <- off + 1` (R23). -/
def advance (s : State) : State := { s with off := s.off + 1 }

/-- `base <- LEN - FRAME_BYTES`, after the comparison that makes it non-negative (R110). -/
def latchBase (G : Geometry) (s : State) : State := { s with base := s.len - BitVec.ofNat 32 G.frameBytes }

/-- A new PLANE. -/
def setPlane (m : PlaneMem) (s : State) : State := { s with plane := m }

/-- Return a value to whoever asked for it (log 3). -/
def answer (v : Result) (s : State) : State := { s with result := v }

/-! ## Where the block is -/

/-- The data area: off in HEADER_BYTES..FRAME_BYTES-1 (R113). -/
def inDataArea (s : State) : Bool :=
  decide (Geometry.bfu.headerBytes ≤ s.off.toNat) && decide (s.off.toNat < Geometry.bfu.frameBytes)

/-- A step of a decode whose outcome the host has made open: STATUS and CAUSE take free values (U4, log 10). What PLANE
holds is open too (`planeOpen`), and the hidden registers are not read again before the next START writes them. -/
def openStep (s : State) : State :=
  { s with
    status := statusOfCode (Config.freeStatusCode s.draws)
    cause  := causeOfCode (Config.freeCauseCode s.draws)
    draws  := s.draws + 1 }

/-- An operation of the block, which acts only while BUSY (R20) and only where the operation map selects it (R91,
log 13); in a decode whose outcome is open it is an open step. -/
def blockOperation (selected : Bool) (s : State) (own : Host.Outcome State Fault Refusal) :
    Host.Outcome State Fault Refusal :=
  if s.status = .busy then
    if s.outcomeOpen then .next (openStep s)
    else if selected then own
    else .refused .notSelected
  else .refused .notSelected

/-! ## Taking the exception and leaving it -/

/-- `raise FormatError(cause)`: STATUS <- ERROR, CAUSE <- cause, and nothing else (R194). There is no handler, no vector
and no saved program counter. -/
def raise (c : Cause) (s : State) : State := { s with status := .error, cause := c }

/-- How ERROR is left: there is no return from the trap (R198); the next START clears CAUSE, rewinds `off` and makes the
block BUSY (R170). A new decode's outcome is not open. -/
def enterBusy (s : State) : State := { s with status := .busy, cause := .none, off := 0, outcomeOpen := false }

/-- LEN < FRAME_BYTES, unsigned (R110, R191). -/
def isShort (G : Geometry) (s : State) : Bool := decide (s.len.toNat < G.frameBytes)

end Sys2Proof.Machine
end

