-- ==== Sys2Proof/Machine/SampleExtractor.lean ====
section
/-! DEFINITION. Family 41, the 10-bit sub-byte sample extractor (R130 to R134): what DATA_LATCH and GROUP_EMIT do to the
state, and the pure operations WIDEN, UNPACK_LOW, PACK_REMOVE. -/

namespace Sys2Proof.Machine

/-- DATA_LATCH of the byte `b`: D[k] <- b for the lane k of `off` (R130). -/
def latchByte (G : Geometry) (b : Byte) (s : State) : State :=
  { s with held := s.held.set (laneAt G s.off.toNat) b }

/-- The plane words of one group: for each lane, WIDEN, UNPACK_LOW and PACK_REMOVE, then PLANE_WRITE; lane 4 has no
column (R131). -/
def emitLanes (G : Geometry) (row g : Nat) (h : Held) (p : Byte) (m : PlaneMem) : PlaneMem :=
  [0, 1, 2, 3, 4].foldl
    (fun m k =>
      match sampleColumn g k with
      | some c => placeSample G m row c (unpackPair (widenByte (h.get k)) (widenByte p) k)
      | none => m) m

/-- GROUP_EMIT of the packing byte `p` (R131). -/
def emitGroup (G : Geometry) (p : Byte) (s : State) : State :=
  setPlane (emitLanes G (rowAt G s.off.toNat) (groupAt G s.off.toNat) s.held p s.plane) s

/-- DATA_LATCH (R130), selected by a kept byte of lane 0..3: D[k] <- b. ROW_FRAME advances `off` (log 14). -/
def execDataLatch (s : State) : Host.Outcome State Fault Refusal :=
  blockOperation (inDataArea s && rowOperation Geometry.bfu s.off.toNat == .dataLatch) s
    (withCurrentByte s (fun b => .next (latchByte Geometry.bfu b s)))

/-- GROUP_EMIT (R131), selected by a kept byte of lane 4: twelve plane words. ROW_FRAME advances `off` (log 14). -/
def execGroupEmit (s : State) : Host.Outcome State Fault Refusal :=
  blockOperation (inDataArea s && rowOperation Geometry.bfu s.off.toNat == .groupEmit) s
    (withCurrentByte s (fun b => .next (emitGroup Geometry.bfu b s)))

/-- WIDEN (R132). -/
def execWiden (b : Byte) (s : State) : Host.Outcome State Fault Refusal :=
  .next (answer (.sample (widenByte b)) s)

/-- UNPACK_LOW (R133), k in 0..3. -/
def execUnpackLow (wk w4 : Sample) (k : Nat) (s : State) : Host.Outcome State Fault Refusal :=
  if k < 4 then .next (answer (.sample (unpackPair wk w4 k)) s) else .refused .noSuchLane

/-- PACK_REMOVE (R134), g in 0..647, k in 0..4. -/
def execPackRemove (g k : Nat) (s : State) : Host.Outcome State Fault Refusal :=
  if g < Geometry.bfu.groupsPerRow ∧ k < 5 then .next (answer (.column (sampleColumn g k)) s)
  else .refused .noSuchLane

end Sys2Proof.Machine
end

