-- ==== Sys2Proof/Machine/FrameUnpacker.lean ====
section
/-! DEFINITION. Family 40, the frame unpacker (R110 to R116): FRAME_EXTRACT, MARKER_CHECK, HEADER_SKIP, ROW_FRAME,
FRAMING_CHECK, ROW_DROP, ROW_TRIM. Each operation is written over a geometry; the meaning `exec…` is its hardware
instance. A block operation presented where STATUS and `off` select another is refused by name (log 13). -/

namespace Sys2Proof.Machine

/-- FRAME_EXTRACT: SHORT_BUFFER when LEN < FRAME_BYTES, else latch `base` (R110). -/
def frameExtract (G : Geometry) (s : State) : State :=
  if isShort G s then raise .shortBuffer s else latchBase G s

/-- MARKER_CHECK of the byte `b` at `off` (R111). -/
def markerCheck (b : Byte) (s : State) : State :=
  if b = markerByte s.off.toNat then advance s else raise .badMarker s

/-- What ROW_FRAME does with the byte `b` before `off` advances: ROW_DROP and ROW_TRIM skip, DATA_LATCH and GROUP_EMIT
act (R113). The tests are those of `rowOperation`, the row test first. -/
def rowBody (G : Geometry) (b : Byte) (s : State) : State :=
  if G.rowsKept ≤ rowAt G s.off.toNat then s
  else if G.rowBytesKept ≤ bcolAt G s.off.toNat then s
  else if bcolAt G s.off.toNat % 5 < 4 then latchByte G b s
  else emitGroup G b s

/-- ROW_FRAME of the byte `b`: FRAMING_CHECK at the first data byte, then the row's operation, then `off` advances
(R113, R114). -/
def rowFrame (G : Geometry) (b : Byte) (s : State) : State :=
  if s.off.toNat = G.headerBytes ∧ framingOk G = false then raise .badFraming s
  else advance (rowBody G b s)

/-- FRAME_EXTRACT (R110). It is part of an accepted START, so STATUS is not BUSY. -/
def execFrameExtract (s : State) : Host.Outcome State Fault Refusal :=
  if s.status = .busy then .refused .notSelected else .next (frameExtract Geometry.bfu s)

/-- MARKER_CHECK (R111), selected by off in 0..3. -/
def execMarkerCheck (s : State) : Host.Outcome State Fault Refusal :=
  blockOperation (decide (s.off.toNat < 4)) s (withCurrentByte s (fun b => .next (markerCheck b s)))

/-- HEADER_SKIP (R112), selected by off in 4..32767; the byte's value is not used. -/
def execHeaderSkip (s : State) : Host.Outcome State Fault Refusal :=
  blockOperation (decide (4 ≤ s.off.toNat) && decide (s.off.toNat < Geometry.bfu.headerBytes)) s (.next (advance s))

/-- ROW_FRAME (R113), selected by off in 32768..6,404,095. -/
def execRowFrame (s : State) : Host.Outcome State Fault Refusal :=
  blockOperation (inDataArea s) s (withCurrentByte s (fun b => .next (rowFrame Geometry.bfu b s)))

/-- FRAMING_CHECK (R114), selected by off = 32768. -/
def execFramingCheck (s : State) : Host.Outcome State Fault Refusal :=
  blockOperation (decide (s.off.toNat = Geometry.bfu.headerBytes)) s
    (.next (if framingOk Geometry.bfu then s else raise .badFraming s))

/-- ROW_DROP (R115), selected by row in 1944..1951: skip. ROW_FRAME advances `off` (log 14). -/
def execRowDrop (s : State) : Host.Outcome State Fault Refusal :=
  blockOperation (inDataArea s && rowOperation Geometry.bfu s.off.toNat == .rowDrop) s (.next s)

/-- ROW_TRIM (R116), selected by row in 0..1943 and byte column in 3240..3263: skip. ROW_FRAME advances `off` (log 14). -/
def execRowTrim (s : State) : Host.Outcome State Fault Refusal :=
  blockOperation (inDataArea s && rowOperation Geometry.bfu s.off.toNat == .rowTrim) s (.next s)

end Sys2Proof.Machine
end

