-- ==== Sys2Proof/Machine/PlaneDemux.lean ====
section
/-! DEFINITION. Family 42, the colour plane demultiplexer (R150 to R153). PLANE is the block's while STATUS = BUSY and
untouched by it otherwise (R62), so its writing operations need BUSY (log 13). -/

namespace Sys2Proof.Machine

/-- PLANE_ALLOC at (r, c), the sequencer's form: zero in the two planes not selected there (R150, log 15). -/
def execPlaneAlloc (r c : Nat) (s : State) : Host.Outcome State Fault Refusal :=
  blockOperation true s
    (if isCoordinate Geometry.bfu r c then .next (setPlane (clearUnselected Geometry.bfu s.plane r c) s)
     else .refused .noSuchPlaneWord)

/-- PLANE_SELECT, parity code 0b00: (even row, even column) (R151). -/
def execPlaneSelectGreenE (s : State) : Host.Outcome State Fault Refusal :=
  .next (answer (.plane (planeOfParity 0)) s)

/-- PLANE_SELECT, parity code 0b01: (even row, odd column) (R151). -/
def execPlaneSelectBlue (s : State) : Host.Outcome State Fault Refusal :=
  .next (answer (.plane (planeOfParity 1)) s)

/-- PLANE_SELECT, parity code 0b10: (odd row, even column) (R151). -/
def execPlaneSelectRed (s : State) : Host.Outcome State Fault Refusal :=
  .next (answer (.plane (planeOfParity 2)) s)

/-- PLANE_SELECT, parity code 0b11: (odd row, odd column) (R151). -/
def execPlaneSelectGreenO (s : State) : Host.Outcome State Fault Refusal :=
  .next (answer (.plane (planeOfParity 3)) s)

/-- PLANE_WRITE of the sample `v` at (r, c) (R153). -/
def execPlaneWrite (r c : Nat) (v : Sample) (s : State) : Host.Outcome State Fault Refusal :=
  blockOperation true s
    (if isCoordinate Geometry.bfu r c then .next (setPlane (placeSample Geometry.bfu s.plane r c v) s)
     else .refused .noSuchPlaneWord)

end Sys2Proof.Machine
end

