-- ==== Sys2Proof/Machine/HostSequencer.lean ====
section
/-! DEFINITION. Family 43, the host operations, the sequencer and the whole decode (R170 to R182), RESET (R220), and which
operation a step performs next. -/

namespace Sys2Proof.Machine

/-! ## START, STEP and FINISH -/

/-- START: ignored while BUSY; else CAUSE <- NONE and FRAME_EXTRACT, and when that did not raise, off <- 0 and
STATUS <- BUSY (R170). -/
def start (G : Geometry) (s : State) : State :=
  if s.status = .busy then s
  else if isShort G s then raise .shortBuffer { s with outcomeOpen := false }
  else enterBusy (latchBase G s)

/-- START (R170). -/
def execStart (s : State) : Host.Outcome State Fault Refusal := .next (start Geometry.bfu s)

/-- FINISH: STATUS <- DONE (R175). Every word of PLANE is now this decode's (R155), so that none is open. -/
def finish (s : State) : State := { s with status := .done, planeOpen := false }

/-- FINISH (R175), selected by off = FRAME_BYTES while BUSY. -/
def execFinish (s : State) : Host.Outcome State Fault Refusal :=
  blockOperation (decide (s.off.toNat = Geometry.bfu.frameBytes)) s (.next (finish s))

/-- One step of a BUSY block: FINISH at the end of the frame, else the byte at `base + off` is read and MARKER_CHECK,
HEADER_SKIP or ROW_FRAME works on it (R173). In a decode whose outcome the host has made open the step is open (log 10). -/
def blockStep (G : Geometry) (s : State) : Host.Outcome State Fault Refusal :=
  if s.outcomeOpen then .next (openStep s)
  else if s.off.toNat = G.frameBytes then .next (finish s)
  else withCurrentByte s (fun b =>
    if s.off.toNat < 4 then .next (markerCheck b s)
    else if s.off.toNat < G.headerBytes then .next (advance s)
    else .next (rowFrame G b s))

/-- STEP (R173). When STATUS is not BUSY the block has no step: it is idle, and nothing changes (R20, R173, log 19). -/
def execStep (s : State) : Host.Outcome State Fault Refusal :=
  if s.status = .busy then blockStep Geometry.bfu s else .next s

/-! ## DECODE -/

/-- s(r, c): the closed form of a sample on the bytes of IN (R135). -/
def sampleAt (G : Geometry) (m : Memory) (base r c : Nat) : Sample :=
  sampleValue (readIn m (base + keptOffset G r (c / 4) (c % 4))) (readIn m (base + keptOffset G r (c / 4) 4)) (c % 4)

/-- PLANE[p][r][c] of the result: the sample where p = SEL(r, c), else zero (R154, R171). -/
def outputWord (G : Geometry) (m : Memory) (base p r c : Nat) : Sample :=
  if p = (sel r c).index then sampleAt G m base r c else 0

/-- The three planes of the result, every word of them (R155, R171). -/
def outputPlanes (G : Geometry) (m : Memory) (base : Nat) : PlaneMem :=
  (List.range G.planeWords).map (fun key =>
    (key, outputWord G m base (key / (G.rowsKept * G.cols)) (key / G.cols % G.rowsKept) (key % G.cols)))

/-- The index of the first marker byte that differs (R192, R197). -/
def firstMismatch (m : Memory) (base : Nat) : Option Nat :=
  [0, 1, 2, 3].find? (fun i => readIn m (base + i) != markerByte i)

/-- The last group's data bytes, which D holds when a decode ends (R131). -/
def lastHeld (G : Geometry) (m : Memory) (base : Nat) : Held :=
  let byte := fun k => readIn m (base + keptOffset G (G.rowsKept - 1) (G.groupsPerRow - 1) k)
  { d0 := byte 0, d1 := byte 1, d2 := byte 2, d3 := byte 3 }

/-- The whole decode at the transaction level (R171), from a state whose STATUS is not BUSY: the checks in the source's
order, then all three planes. The hidden registers end as the sequencer leaves them (log 17). -/
def transact (G : Geometry) (s : State) : State :=
  if isShort G s then raise .shortBuffer { s with outcomeOpen := false }
  else
    let b := enterBusy (latchBase G s)
    match firstMismatch s.inp b.base.toNat with
    | some i => raise .badMarker { b with off := BitVec.ofNat 23 i }
    | none =>
      if framingOk G = false then raise .badFraming { b with off := BitVec.ofNat 23 G.headerBytes }
      else finish { b with
        off := BitVec.ofNat 23 G.frameBytes
        held := lastHeld G s.inp b.base.toNat
        plane := outputPlanes G s.inp b.base.toNat }

/-- Let the block step until STATUS is not BUSY, at most `n` times. -/
def awaitEnd (G : Geometry) : Nat → State → Host.Outcome State Fault Refusal
  | 0, s => .next s
  | n + 1, s =>
    if s.status = .busy then
      match blockStep G s with
      | .next t => awaitEnd G n t
      | .fault f => .fault f
      | .refused r => .refused r
    else .next s

/-- More steps than any walk of the 23-bit `off` to FRAME_BYTES takes, so that waiting ends (R183). -/
def waitBound : Nat := 16777216

/-- DECODE (R171), the sequence START; wait until STATUS is not BUSY. While BUSY its START is ignored and the wait is for
the decode that runs (log 17). -/
def execDecode (s : State) : Host.Outcome State Fault Refusal :=
  if s.status = .busy then awaitEnd Geometry.bfu waitBound s else .next (transact Geometry.bfu s)

/-! ## Host accesses -/

/-- The host writes IN or LEN while STATUS = BUSY, outside its contract: the write happens, and the outcome and the
planes of the running decode become open (R62, R224, R226; U4, log 10). -/
def breakContract (s : State) : State :=
  if s.status = .busy then { s with outcomeOpen := true, planeOpen := true } else s

/-- LEN_WRITE (R177): LEN <- v; while BUSY a contract violation (R226, log 10). -/
def execLenWrite (v : LenWord) (s : State) : Host.Outcome State Fault Refusal :=
  .next { breakContract s with len := v }

/-- LEN_READ (R178). -/
def execLenRead (s : State) : Host.Outcome State Fault Refusal := .next (answer (.len s.len) s)

/-- IN_WRITE (R179): IN[a] <- b; while BUSY a contract violation (R224, log 10). -/
def execInWrite (a : LenWord) (b : Byte) (s : State) : Host.Outcome State Fault Refusal :=
  .next { breakContract s with inp := writeIn s.inp a.toNat b }

/-- STATUS_READ (R180). -/
def execStatusRead (s : State) : Host.Outcome State Fault Refusal :=
  .next (answer (.status (statusCode s.status)) s)

/-- CAUSE_READ (R181). -/
def execCauseRead (s : State) : Host.Outcome State Fault Refusal :=
  .next (answer (.cause (causeCode s.cause)) s)

/-- PLANE_READ (R182). A triple outside the plane space addresses nothing and is refused (U6, log 11); while BUSY, or
where PLANE's words are open, the value read is free (R225, U4, U5, log 9, log 10); otherwise the word, or a fault where it holds no value (R34, D25, log 7). -/
def execPlaneRead (p r c : Nat) (s : State) : Host.Outcome State Fault Refusal :=
  if p < 3 ∧ isCoordinate Geometry.bfu r c then
    if s.status = .busy ∨ s.planeOpen then
      .next (answer (.word (Config.freePlaneWord s.draws)) { s with draws := s.draws + 1 })
    else
      match readPlane Geometry.bfu s.plane p r c with
      | some v => .next (answer (.word v) s)
      | none => .fault .planeNoValue
  else .refused .noSuchPlaneWord

/-! ## RESET -/

/-- RESET (R220): STATUS, CAUSE, LEN and off take their reset values; `base` and D are unspecified, free values (U7,
log 8); no plane word holds a value; IN is not touched. Also while BUSY (R221). -/
def execReset (s : State) : Host.Outcome State Fault Refusal :=
  .next { s with
    status := .idle
    cause  := .none
    len    := 0
    base   := Config.freeBase s.draws
    off    := 0
    held   := { d0 := Config.freeHeld s.draws 0, d1 := Config.freeHeld s.draws 1,
                d2 := Config.freeHeld s.draws 2, d3 := Config.freeHeld s.draws 3 }
    plane  := []
    draws  := s.draws + 1
    outcomeOpen := false
    planeOpen   := false }

/-! ## Which operation is next -/

/-- The operation the next step performs, and the state it performs it in: the first operation at the port, with its bytes
taken (log 1, log 2); with an empty port the move is the block's, its step while BUSY, nothing otherwise (R20, R173). Bytes
that are no operation, or an operation the host cannot perform, are refused. -/
def nextOperation (s : State) : Except Refusal (Instr × State) :=
  match s.port with
  | [] => .ok (.step, s)
  | b :: bs =>
    match decode (b :: bs) with
    | .reject e => .error (.undecodable e)
    | .op i rest => if i.presentable then .ok (i, { s with port := rest }) else .error .notAHostCommand

/-- A state in which a decode of a buffer of one frame, with the marker, has come to a frame offset (log 22). -/
def startedFrame (o : Nat) (s : State) : State :=
  { s with
    status := .busy
    cause := .none
    len := BitVec.ofNat 32 Geometry.bfu.frameBytes
    base := 0
    off := BitVec.ofNat 23 o
    inp := [(0, 0x42), (1, 0x52), (2, 0x43), (3, 0x4D)].foldl (fun m x => writeIn m x.1 x.2) s.inp
    port := []
    outcomeOpen := false
    planeOpen := false }

end Sys2Proof.Machine
end

