-- ==== Sys2Proof/Machine/Dispatch.lean ====
section
/-! DEFINITION. One arm for each operation of the opcode table: its meaning. -/

namespace Sys2Proof.Machine

/-- The meaning of an operation in a state. -/
def exec (i : Instr) (s : State) : Host.Outcome State Fault Refusal :=
  match i with
  | .start => Sys2Proof.Machine.execStart s
  -- family 40
  | .frameExtract => Sys2Proof.Machine.execFrameExtract s
  | .markerCheck => Sys2Proof.Machine.execMarkerCheck s
  | .headerSkip => Sys2Proof.Machine.execHeaderSkip s
  | .rowFrame => Sys2Proof.Machine.execRowFrame s
  | .framingCheck => Sys2Proof.Machine.execFramingCheck s
  | .rowDrop => Sys2Proof.Machine.execRowDrop s
  | .rowTrim => Sys2Proof.Machine.execRowTrim s
  -- family 41
  | .dataLatch => Sys2Proof.Machine.execDataLatch s
  | .groupEmit => Sys2Proof.Machine.execGroupEmit s
  | .widen b => Sys2Proof.Machine.execWiden b s
  | .unpackLow wk w4 k => Sys2Proof.Machine.execUnpackLow wk w4 k s
  | .packRemove g k => Sys2Proof.Machine.execPackRemove g k s
  -- family 42
  | .planeAlloc r c => Sys2Proof.Machine.execPlaneAlloc r c s
  | .planeSelectGreenE => Sys2Proof.Machine.execPlaneSelectGreenE s
  | .planeSelectBlue => Sys2Proof.Machine.execPlaneSelectBlue s
  | .planeSelectRed => Sys2Proof.Machine.execPlaneSelectRed s
  | .planeSelectGreenO => Sys2Proof.Machine.execPlaneSelectGreenO s
  | .planeWrite r c v => Sys2Proof.Machine.execPlaneWrite r c v s
  -- families 43 and 70
  | .step => Sys2Proof.Machine.execStep s
  | .finish => Sys2Proof.Machine.execFinish s
  | .decode => Sys2Proof.Machine.execDecode s
  | .lenWrite v => Sys2Proof.Machine.execLenWrite v s
  | .lenRead => Sys2Proof.Machine.execLenRead s
  | .inWrite a b => Sys2Proof.Machine.execInWrite a b s
  | .statusRead => Sys2Proof.Machine.execStatusRead s
  | .causeRead => Sys2Proof.Machine.execCauseRead s
  | .planeRead p r c => Sys2Proof.Machine.execPlaneRead p r c s
  | .reset => Sys2Proof.Machine.execReset s

end Sys2Proof.Machine
end

