-- ==== Sys2Proof/Machine/Step.lean ====
section
/-! DEFINITION. One step of the machine, and how a word of the opcode table is placed where a step takes it. -/

namespace Sys2Proof.Machine

/-- One step: the operation that is next, the host's or the block's (`nextOperation`, log 2), is performed; what is at the
port and is no operation of the host is refused (log 1). -/
def step (s : State) : Host.Outcome State Fault Refusal :=
  match nextOperation s with
  | .ok (i, t) => exec i t
  | .error r => .refused r

/-- The state with a word of the opcode table placed where the next step takes it. An operation the port takes is
presented at the port. The marker word is frame data: it is placed at the start of a frame that has just been started,
and an operation of the block is placed by its position in such a frame (R91). Log 22. -/
def State.withFetchWord (s : State) (nbits w : Nat) : State :=
  match (decodeTableWord nbits w).bind firstOffset with
  | some o => startedFrame o s
  | none => { s with port := layoutWord nbits w }

end Sys2Proof.Machine
end

