-- ==== Sys2Proof/Safety.lean ====
section
/-! DEFINITION. What counts as a safe state and a run, in the terms the statements use. The numbers are the hardware's
(R6): FRAME_BYTES 6404096, ROWS_KEPT 1944, COLS 2592, 648 groups a row. -/

namespace Sys2Proof.Machine

/-- The invariant of the machine: the memories keep their canonical form, and, unless the host has broken its contract
in the decode (`outcomeOpen`, log 10), CAUSE is meaningful only in ERROR (R27) and never BAD_FRAMING (R114), a BUSY block
stands inside its frame (R23, R28, R173) and has written the words of every group it has passed (R155), DONE means all
of PLANE is written and IDLE that none of it is (R26). -/
structure MachineInv (s : State) : Prop where
  memory : s.inp.wf
  planes : s.plane.wf
  opened : s.outcomeOpen = true → s.planeOpen = true
  cause : s.outcomeOpen = false → (s.cause ≠ .none ↔ s.status = .error)
  framing : s.outcomeOpen = false → s.cause ≠ .badFraming
  idle : s.outcomeOpen = false → s.status = .idle → s.plane = [] ∧ s.planeOpen = false
  busy : s.outcomeOpen = false → s.status = .busy →
    s.base.toNat + 6404096 = s.len.toNat ∧ s.off.toNat ≤ 6404096
  written : s.outcomeOpen = false → s.status = .busy → ∀ p r c, p < 3 → r < 1944 →
    c < 2592 → keptOffset Geometry.bfu r (c / 4) 4 < s.off.toNat →
    (readPlane Geometry.bfu s.plane p r c).isSome
  done : s.planeOpen = false → s.status = .done → ∀ p r c, p < 3 → r < 1944 →
    c < 2592 → (readPlane Geometry.bfu s.plane p r c).isSome

/-- What a BUSY block has achieved so far: the marker bytes it has passed were right (R111), D holds the data bytes of
the group it is in (R22), and each plane word of a group it has passed is the result's (R154). -/
structure Progress (s : State) : Prop where
  marker : ∀ i, i < 4 → i < s.off.toNat → readIn s.inp (s.base.toNat + i) = markerByte i
  latched : ∀ r g j k, r < 1944 → g < 648 → j ≤ 4 → k < j →
    s.off.toNat = keptOffset Geometry.bfu r g j →
    s.held.get k = readIn s.inp (s.base.toNat + keptOffset Geometry.bfu r g k)
  planes : ∀ p r c, p < 3 → r < 1944 → c < 2592 →
    keptOffset Geometry.bfu r (c / 4) 4 < s.off.toNat →
    readPlane Geometry.bfu s.plane p r c = some (outputWord Geometry.bfu s.inp s.base.toNat p r c)

/-- A decode is running and the host has kept its contract in it. -/
def Running (s : State) : Prop := s.status = .busy ∧ s.outcomeOpen = false

/-- `n` steps of the machine, stopping where a step stops. -/
def run : Nat → State → Host.Outcome State Fault Refusal
  | 0, s => .next s
  | n + 1, s =>
    match step s with
    | .next t => run n t
    | .fault f => .fault f
    | .refused r => .refused r

/-- How many block steps a decode takes: none for SHORT_BUFFER, the index of the first wrong marker byte plus one for
BAD_MARKER, and one for each byte of the frame and FINISH otherwise (R176). -/
def decodeSteps (s : State) : Nat :=
  if isShort Geometry.bfu s then 0
  else match firstMismatch s.inp (latchBase Geometry.bfu s).base.toNat with
    | some i => i + 1
    | none => 6404096 + 1

/-- Two states give a decode the same input: the same LEN, and equal marker bytes and kept bytes in the frame, whatever
the preview, the rest of the header and the padding hold (R118). -/
def SameDecodeInput (s t : State) : Prop :=
  s.len = t.len ∧
  (∀ i, i < 4 → readIn s.inp (s.len.toNat - 6404096 + i)
      = readIn t.inp (t.len.toNat - 6404096 + i)) ∧
  (∀ r g k, r < 1944 → g < 648 → k < 5 →
    readIn s.inp (s.len.toNat - 6404096 + keptOffset Geometry.bfu r g k)
      = readIn t.inp (t.len.toNat - 6404096 + keptOffset Geometry.bfu r g k))

end Sys2Proof.Machine
end

