-- ==== Sys2Proof/Certificates/Slice0/Obligations.lean ====
section
/-! DEFINITION. The statements for the provers, from the numbered rules of spec/. `Running s` says that a decode is
running and that the host has not written IN or LEN in it; `MachineInv` and `Progress` are the invariants of Safety.lean.
Numbers are the hardware's (R6): FRAME_BYTES 6404096, HEADER_BYTES 32768, ROW_STRIDE 3264, ROWS_KEPT 1944,
ROW_BYTES_KEPT 3240, COLS 2592, 648 groups a row. Where a statement says that an operation returns a value, the place it
returns it in, the field `result`, is the model's choice (log 3), as `port` (log 1, log 2) and `draws` (log 8) are. -/

open Sys2Proof Sys2Proof.Machine

/-! ## Decoding -/

/-- Decoding the bytes of a well-formed operation, whatever follows them, gives that operation back. The marker word and
the parity codes are the spec's (R82, R89); the byte form of a named operation is the model's choice (log 1). -/
def Obligations.DecodeOfEncode : Prop :=
  ∀ (i : Instr) (rest : List Byte), i.wellFormed = true → decode (encode i ++ rest) = .op i rest

/-- The words the spec writes out decode to their operations: the marker word (R82) and the four parity codes (R89);
and the bytes of the name LEN_WRITE with 6,404,096 after it (the model's byte form, log 1). -/
def Obligations.SpecWordsDecode : Prop :=
  decodeTableWord 32 0x4252434D = some .markerCheck ∧
  decodeTableWord 8 0b00 = some .planeSelectGreenE ∧
  decodeTableWord 8 0b01 = some .planeSelectBlue ∧
  decodeTableWord 8 0b10 = some .planeSelectRed ∧
  decodeTableWord 8 0b11 = some .planeSelectGreenO ∧
  decode [0x4C, 0x45, 0x4E, 0x5F, 0x57, 0x52, 0x49, 0x54, 0x45, 0x00, 0x00, 0x61, 0xB8, 0x00]
    = .op (.lenWrite 6404096) []

/-- R172's table: the operation of a block step is a function of `off`. -/
def Obligations.PhaseFollowsOffset : Prop :=
  ∀ off : Nat, off ≤ 6404096 →
    (stepOperation Geometry.bfu off = .markerCheck ↔ off ≤ 3) ∧
    (stepOperation Geometry.bfu off = .headerSkip ↔ 4 ≤ off ∧ off ≤ 32767) ∧
    (stepOperation Geometry.bfu off = .rowFrame ↔ 32768 ≤ off ∧ off ≤ 6404095) ∧
    (stepOperation Geometry.bfu off = .finish ↔ off = 6404096)

/-- R117: lane k of group g of kept row r is at frame offset A(r, g, k) = 32768 + 3264 r + 5 g + k, ROW_FRAME sends it to
DATA_LATCH or GROUP_EMIT there, the map is injective, and every offset ROW_FRAME sends to one of the two is an A; there are
6,298,560 of them, from A(0, 0, 0) = 32768 to A(1943, 647, 4) = 6,377,959. -/
def Obligations.KeptBytesClosedForm : Prop :=
  (1944 * 648 * 5 = 6298560 ∧ keptOffset Geometry.bfu 0 0 0 = 32768 ∧ keptOffset Geometry.bfu 1943 647 4 = 6377959) ∧
  (∀ r g k, r < 1944 → g < 648 → k < 5 →
    32768 + 3264 * r + 5 * g + k ≤ 6377959 ∧
    rowAt Geometry.bfu (32768 + 3264 * r + 5 * g + k) = r ∧
    groupAt Geometry.bfu (32768 + 3264 * r + 5 * g + k) = g ∧
    laneAt Geometry.bfu (32768 + 3264 * r + 5 * g + k) = k ∧
    rowOperation Geometry.bfu (32768 + 3264 * r + 5 * g + k) = if k < 4 then .dataLatch else .groupEmit) ∧
  (∀ r g k r' g' k', r < 1944 → g < 648 → k < 5 → r' < 1944 → g' < 648 → k' < 5 →
    32768 + 3264 * r + 5 * g + k = 32768 + 3264 * r' + 5 * g' + k' → r = r' ∧ g = g' ∧ k = k') ∧
  (∀ off, 32768 ≤ off → off < 6404096 →
    (rowOperation Geometry.bfu off = .dataLatch ∨ rowOperation Geometry.bfu off = .groupEmit) →
    ∃ r g k, r < 1944 ∧ g < 648 ∧ k < 5 ∧ off = 32768 + 3264 * r + 5 * g + k)

/-! ## A step of the machine -/

/-- A step performs the operation the host presents: when the bytes at the port decode to an operation the port takes,
the step is that operation's meaning in the state with its bytes taken; when they decode to one it does not take, the step
is refused as `notAHostCommand`. The whole statement is the model's choice: the port, its bytes and that refusal are log 1,
and that the port comes before the block's own step is log 2. From the spec is only which operations the host may perform
(spec 43, section 4). -/
def Obligations.StepRunsPresentedOperation : Prop :=
  ∀ (s : State) (i : Instr) (rest : List Byte), s.port ≠ [] → decode s.port = .op i rest →
    (i.presentable = true → step s = exec i { s with port := rest }) ∧
    (i.presentable = false → step s = .refused .notAHostCommand)

/-- With nothing at the port a running block performs the operation its position selects (R172, R173). That the block
moves when the port is empty is the model's choice (log 1, log 2). -/
def Obligations.StepRunsSelectedOperation : Prop :=
  ∀ s : State, Running s → s.port = [] → s.off.toNat ≤ 6404096 → s.base.toNat + 6404096 ≤ s.len.toNat →
    step s = exec (stepOperation Geometry.bfu s.off.toNat) s

/-- When STATUS is not BUSY and the host presents nothing, nothing happens: the block is idle, not stuck (R20, R173). The
port is the model's choice (log 1, log 2), and that the idle block's step is a next state is log 19. -/
def Obligations.IdleBlockDoesNothing : Prop :=
  ∀ s : State, s.status ≠ .busy → s.port = [] → step s = .next s

/-- STEP: a running block inside its frame completes its step, which is the operation its position selects (R173). The
first clause, that STEP answers the same state when STATUS is not BUSY, is the model's reading, log 19: R173 says only that
STEP is enabled exactly when STATUS is BUSY and that the block has no step otherwise, idle and not stuck. -/
def Obligations.StepOperationCompletes : Prop :=
  ∀ s : State,
    (s.status ≠ .busy → exec .step s = .next s) ∧
    (Running s → s.off.toNat ≤ 6404096 → s.base.toNat + 6404096 ≤ s.len.toNat →
      ∃ t, exec .step s = .next t ∧ exec (stepOperation Geometry.bfu s.off.toNat) s = .next t)

/-! ## Invariants and the whole decode -/

/-- The machine after reset meets the invariants. That `base` and D are zero there is the model's choice (log 4, log 5);
neither invariant rests on it. -/
def Obligations.ResetMeetsInvariants : Prop := MachineInv State.reset ∧ (Running State.reset → Progress State.reset)

/-- Every step from a state that meets the invariant gives a state that meets it, whatever the host presents. -/
def Obligations.StepKeepsInvariant : Prop :=
  ∀ s t : State, MachineInv s → step s = .next t → MachineInv t

/-- Every step of a machine whose running decode has made right progress keeps it so: the marker bytes passed were right,
D holds the current group's data bytes, every plane word of a passed group is the result's. -/
def Obligations.StepKeepsProgress : Prop :=
  ∀ s t : State, MachineInv s → (Running s → Progress s) → step s = .next t → Running t → Progress t

/-- When a running decode that made right progress finishes, STATUS is DONE and every word of the three planes is the
result's: the sample s(r, c) of R135 in the plane SEL(r, c), zero in the other two (R154). -/
def Obligations.FinishDeliversResult : Prop :=
  ∀ s : State, MachineInv s → Running s → Progress s → s.off.toNat = 6404096 →
    ∃ t, exec .step s = .next t ∧ t.status = .done ∧ t.cause = .none ∧
      ∀ p r c, p < 3 → r < 1944 → c < 2592 →
        readPlane Geometry.bfu t.plane p r c = some (outputWord Geometry.bfu s.inp s.base.toNat p r c)

/-- R176: from any state whose STATUS is not BUSY (with PLANE in canonical form and nothing at the port), START and then
letting the block step as often as R176 says ends exactly in the state DECODE gives; and the block is BUSY before each
of those steps, and has none left after them. R176 speaks of STATUS, CAUSE and PLANE only: that DECODE leaves `base`, `off`
and D as the sequencer does is the model's reading, log 17. -/
def Obligations.SequencerAgreesWithDecode : Prop :=
  ∀ s t : State, s.status ≠ .busy → s.plane.wf → s.port = [] → exec .start s = .next t →
    exec .decode s = run (decodeSteps s) t ∧
    (∃ u, run (decodeSteps s) t = .next u ∧ u.status ≠ .busy) ∧
    (∀ n, n < decodeSteps s → ∃ u, run n t = .next u ∧ u.status = .busy)

/-- R183: every decode ends. A running decode left to itself leaves BUSY after at most 6,404,097 steps, whatever IN
holds. -/
def Obligations.EveryDecodeEnds : Prop :=
  ∀ s : State, MachineInv s → Running s → s.port = [] →
    ∃ n t, n ≤ 6404097 ∧ run n s = .next t ∧ t.status ≠ .busy

/-- DECODE while BUSY: its START is ignored and it waits for the running decode (the model's reading of `wait until
STATUS ≠ BUSY`, log 17). The state it answers is the one the block's own steps reach, at most 6,404,097 of them with
nothing presented, the port apart, which keeps what it holds; there STATUS is DONE, or ERROR with BAD_MARKER. Under
`Progress`, DONE has the result's word at every triple, and ERROR has PLANE as it was. -/
def Obligations.DecodeWhileBusyWaits : Prop :=
  ∀ s : State, MachineInv s → Running s →
    ∃ n t, n ≤ 6404097 ∧ exec .decode s = .next t ∧ run n { s with port := [] } = .next { t with port := [] } ∧
      t.port = s.port ∧ t.len = s.len ∧ t.inp = s.inp ∧ t.base = s.base ∧
      (t.status = .done ∧ t.cause = .none ∨ t.status = .error ∧ t.cause = .badMarker) ∧
      (Progress s → t.status = .done → ∀ p r c, p < 3 → r < 1944 → c < 2592 →
        readPlane Geometry.bfu t.plane p r c = some (outputWord Geometry.bfu s.inp s.base.toNat p r c)) ∧
      (t.status = .error → t.plane = s.plane)

/-- R194, R195: traps are precise. A step of a running decode that ends in ERROR is a marker mismatch at off in 0..3, and
a START that ends in ERROR found LEN below 6,404,096; each changes STATUS and CAUSE and nothing else, and the block has no
further step. The first operation that writes plane words is at off = 32772, and a step of a running decode before it
leaves PLANE; so a decode that is in ERROR after START and any number of steps has PLANE as it was before START. (That
the block has no further step is said as a STEP that answers the same state, the model's reading, log 19. The model's own
field `outcomeOpen`, log 10, is left out.) -/
def Obligations.RaiseIsPreciseAndWritesNoPlane : Prop :=
  (∀ s t : State, MachineInv s → Running s → exec .step s = .next t → t.status = .error →
    s.off.toNat ≤ 3 ∧ t = { s with status := .error, cause := .badMarker } ∧
    readIn s.inp (s.base.toNat + s.off.toNat) ≠ markerByte s.off.toNat ∧ exec .step t = .next t) ∧
  (∀ s t : State, exec .start s = .next t → t.status = .error →
    s.status ≠ .busy ∧ s.len.toNat < 6404096 ∧
    t = { s with status := .error, cause := .shortBuffer, outcomeOpen := t.outcomeOpen } ∧ exec .step t = .next t) ∧
  (∀ off, 32768 ≤ off → rowOperation Geometry.bfu off = .groupEmit → 32772 ≤ off) ∧
  (∀ s t : State, Running s → s.off.toNat < 32772 → exec .step s = .next t → t.plane = s.plane) ∧
  (∀ (s t u : State) (n : Nat), s.status ≠ .busy → s.port = [] → exec .start s = .next t → run n t = .next u →
    u.status = .error → u.plane = s.plane)

/-- R171 and R154: the three outcomes of DECODE from a state whose STATUS is not BUSY. A buffer below 6,404,096 bytes
gives ERROR(SHORT_BUFFER); else a frame whose first four bytes are not 42 52 43 4D gives ERROR(BAD_MARKER); each leaves
every plane word as it was. Otherwise the decode is DONE, and at every (p, r, c) PLANE holds, where p = SEL(r, c),
4 IN[A + k] + ((IN[A + 4] div 2^(6 - 2k)) mod 4) with A = base + 32768 + 3264 r + 5 (c div 4) and k = c mod 4, and zero in
the other two planes. LEN, IN and all else the decode does not name are as before. The end values of `off`, 6,404,096 in DONE
and the index of the first wrong byte in BAD_MARKER, are not R171's but the reference sequencer's (R173, R175, R176): the
model's reading, log 17. (Nothing is claimed of D after DONE, nor of the model's own fields `outcomeOpen` and `planeOpen`,
log 10.) -/
def Obligations.DecodeOutcomes : Prop :=
  ∀ s : State, s.status ≠ .busy →
    (s.len.toNat < 6404096 →
      ∃ t, exec .decode s = .next t ∧
        t = { s with status := .error, cause := .shortBuffer, outcomeOpen := t.outcomeOpen }) ∧
    (6404096 ≤ s.len.toNat →
      (∃ i, i < 4 ∧ readIn s.inp (s.len.toNat - 6404096 + i) ≠ markerByte i) →
      ∃ t, exec .decode s = .next t ∧
        t = { s with status := .error, cause := .badMarker, base := s.len - 6404096#32, off := t.off,
                     outcomeOpen := t.outcomeOpen } ∧
        t.off.toNat < 4 ∧ readIn s.inp (s.len.toNat - 6404096 + t.off.toNat) ≠ markerByte t.off.toNat ∧
        ∀ i, i < t.off.toNat → readIn s.inp (s.len.toNat - 6404096 + i) = markerByte i) ∧
    (6404096 ≤ s.len.toNat →
      (∀ i, i < 4 → readIn s.inp (s.len.toNat - 6404096 + i) = markerByte i) →
      ∃ t, exec .decode s = .next t ∧
        t = { s with status := .done, cause := .none, base := s.len - 6404096#32, off := 6404096#23,
                     held := t.held, plane := t.plane, outcomeOpen := t.outcomeOpen, planeOpen := t.planeOpen } ∧
        ∀ p r c, p < 3 → r < 1944 → c < 2592 →
          ∃ v : Sample, readPlane Geometry.bfu t.plane p r c = some v ∧
            v.toNat = if p = (sel r c).index then
                4 * (readIn s.inp (s.len.toNat - 6404096 + 32768 + 3264 * r + 5 * (c / 4) + c % 4)).toNat
                  + (readIn s.inp (s.len.toNat - 6404096 + 32768 + 3264 * r + 5 * (c / 4) + 4)).toNat
                      / 2 ^ (6 - 2 * (c % 4)) % 4
              else 0)

/-- R118, the padding-discard law: two buffers of the same LEN that agree on the marker bytes and on the kept bytes give
the same STATUS, CAUSE and, on DONE, the same three planes; preview, header and padding have no influence. -/
def Obligations.PaddingIsDiscarded : Prop :=
  ∀ s t s' t' : State, s.status ≠ .busy → t.status ≠ .busy → SameDecodeInput s t →
    exec .decode s = .next s' → exec .decode t = .next t' →
    s'.status = t'.status ∧ s'.cause = t'.cause ∧ (s'.status = .done → s'.plane = t'.plane)

/-- R33: a decode's result depends on IN and LEN and on nothing else: not on the previous PLANE, D, off, base, STATUS or
CAUSE. -/
def Obligations.DecodeDependsOnBufferOnly : Prop :=
  ∀ s t : State, s.status ≠ .busy → t.status ≠ .busy → s.len = t.len → s.inp = t.inp →
    ∃ s' t', exec .decode s = .next s' ∧ exec .decode t = .next t' ∧
      s'.status = t'.status ∧ s'.cause = t'.cause ∧ (s'.status = .done → s'.plane = t'.plane)

/-- R155: each coordinate of the planes is written by exactly one GROUP_EMIT of a decode, and no GROUP_EMIT forms a
coordinate outside them. -/
def Obligations.EachCoordinateEmittedOnce : Prop :=
  (∀ r c, r < 1944 → c < 2592 →
    ∃ off, (32768 ≤ off ∧ off < 6404096 ∧ rowOperation Geometry.bfu off = .groupEmit ∧
        rowAt Geometry.bfu off = r ∧ groupAt Geometry.bfu off = c / 4) ∧
      ∀ off', 32768 ≤ off' → off' < 6404096 → rowOperation Geometry.bfu off' = .groupEmit →
        rowAt Geometry.bfu off' = r → groupAt Geometry.bfu off' = c / 4 → off' = off) ∧
  (∀ off k, 32768 ≤ off → off < 6404096 → rowOperation Geometry.bfu off = .groupEmit → k < 4 →
    rowAt Geometry.bfu off < 1944 ∧ 4 * groupAt Geometry.bfu off + k < 2592)

/-- R156: Red and Blue are populated at 1,259,712 coordinates each, Green at 2,519,424, together all 1944 x 2592; the other
words of each plane are the sentinel zero. -/
def Obligations.PopulationCounts : Prop :=
  (1259712 + 1259712 + 2519424 = 1944 * 2592 ∧ 1944 * 2592 - 1259712 = 3779136 ∧ 1944 * 2592 - 2519424 = 2519424) ∧
  (∀ (m : Memory) (base p r c : Nat), p ≠ (sel r c).index → outputWord Geometry.bfu m base p r c = 0) ∧
  ((Finset.range 1944 ×ˢ Finset.range 2592).filter (fun x => sel x.1 x.2 = .red)).card = 1259712 ∧
  ((Finset.range 1944 ×ˢ Finset.range 2592).filter (fun x => sel x.1 x.2 = .blue)).card = 1259712 ∧
  ((Finset.range 1944 ×ˢ Finset.range 2592).filter (fun x => sel x.1 x.2 = .green)).card = 2519424

/-! ## Family 40 -/

/-- START (R170): ignored while BUSY; with LEN below 6,404,096 the trap SHORT_BUFFER, `base` and `off` not written;
otherwise the block is BUSY with CAUSE NONE, base = LEN - 6,404,096 and off = 0. (The model's own field `outcomeOpen`, log
10, is left to `NewDecodeIsNotOpen`.) -/
def Obligations.StartBeginsOrTrapsOrIsIgnored : Prop :=
  ∀ s : State,
    (s.status = .busy → exec .start s = .next s) ∧
    (s.status ≠ .busy → s.len.toNat < 6404096 →
      ∃ t, exec .start s = .next t ∧
        t = { s with status := .error, cause := .shortBuffer, outcomeOpen := t.outcomeOpen }) ∧
    (s.status ≠ .busy → 6404096 ≤ s.len.toNat →
      ∃ t, exec .start s = .next t ∧
        t = { s with status := .busy, cause := .none, base := t.base, off := 0, outcomeOpen := t.outcomeOpen } ∧
        t.base.toNat + 6404096 = s.len.toNat)

/-- FRAME_EXTRACT (R110), where an accepted START performs it: the trap SHORT_BUFFER for LEN below 6,404,096, and
otherwise only `base` changes, to LEN - 6,404,096. -/
def Obligations.FrameExtractLocatesFrame : Prop :=
  ∀ s : State, s.status ≠ .busy →
    (s.len.toNat < 6404096 →
      exec .frameExtract s = .next { s with status := .error, cause := .shortBuffer }) ∧
    (6404096 ≤ s.len.toNat →
      ∃ t, exec .frameExtract s = .next t ∧ t = { s with base := t.base } ∧
        t.base.toNat + 6404096 = s.len.toNat)

/-- MARKER_CHECK (R111), R194: at off in 0..3 the byte at base + off is compared with 42, 52, 43, 4D; an equal byte
advances `off` and changes nothing else, another raises BAD_MARKER, which changes STATUS and CAUSE only. -/
def Obligations.MarkerCheckComparesByte : Prop :=
  ∀ s : State, Running s → s.off.toNat < 4 → s.base.toNat + s.off.toNat < s.len.toNat →
    ∀ b : Byte, ([0x42, 0x52, 0x43, 0x4D] : List Byte)[s.off.toNat]? = some b →
      (readIn s.inp (s.base.toNat + s.off.toNat) = b →
        exec .markerCheck s = .next { s with off := s.off + 1 }) ∧
      (readIn s.inp (s.base.toNat + s.off.toNat) ≠ b →
        exec .markerCheck s = .next { s with status := .error, cause := .badMarker })

/-- HEADER_SKIP (R112): at off in 4..32767 only `off` advances, for any byte. -/
def Obligations.HeaderSkipAdvancesOnly : Prop :=
  ∀ s : State, Running s → 4 ≤ s.off.toNat → s.off.toNat ≤ 32767 →
    exec .headerSkip s = .next { s with off := s.off + 1 }

/-- ROW_FRAME (R113): with row = (off - 32768) div 3264 and bcol = (off - 32768) mod 3264, a byte of a row from 1944 on
or of a column from 3240 on is skipped, a byte of lane k in 0..3 goes to D[k], and a byte of lane 4 makes the four samples
of its group, the other plane words staying as they are; `off` advances and nothing else changes. -/
def Obligations.RowFrameClassifiesByte : Prop :=
  ∀ s : State, Running s → 32768 ≤ s.off.toNat → s.off.toNat < 6404096 →
    s.base.toNat + s.off.toNat < s.len.toNat →
    ∀ row bcol, row = (s.off.toNat - 32768) / 3264 → bcol = (s.off.toNat - 32768) % 3264 →
    ∀ b : Byte, b = readIn s.inp (s.base.toNat + s.off.toNat) →
      (1944 ≤ row → exec .rowFrame s = .next { s with off := s.off + 1 }) ∧
      (row < 1944 → 3240 ≤ bcol → exec .rowFrame s = .next { s with off := s.off + 1 }) ∧
      (row < 1944 → bcol < 3240 → bcol % 5 < 4 →
        exec .rowFrame s = .next { s with off := s.off + 1, held := s.held.set (bcol % 5) b }) ∧
      (row < 1944 → bcol < 3240 → bcol % 5 = 4 →
        ∃ t, exec .rowFrame s = .next t ∧ t = { s with off := s.off + 1, plane := t.plane } ∧
          ∀ p r c, p < 3 → r < 1944 → c < 2592 →
            readPlane Geometry.bfu t.plane p r c
              = if r = row ∧ c / 4 = bcol / 5 then
                  some (if p = (sel r c).index then sampleValue (s.held.get (c % 4)) b (c % 4) else 0)
                else readPlane Geometry.bfu s.plane p r c)

/-- FRAMING_CHECK (R114): the data area is exactly 1952 rows of 3264 bytes, so the check at off = 32768 passes and changes
nothing; the advance of `off` is ROW_FRAME's (R113, log 14). -/
def Obligations.FramingCheckAlwaysPasses : Prop :=
  6404096 - 32768 = 1952 * 3264 ∧
  ∀ s : State, Running s → s.off.toNat = 32768 → exec .framingCheck s = .next s

/-- R114: no operation ever puts BAD_FRAMING in CAUSE in a decode whose host keeps its contract. -/
def Obligations.BadFramingNeverRaised : Prop :=
  ∀ (i : Instr) (s t : State), s.outcomeOpen = false → s.cause ≠ .badFraming → exec i s = .next t →
    t.cause ≠ .badFraming

/-- ROW_DROP and ROW_TRIM (R115, R116): a byte of rows 1944..1951, or of byte columns 3240..3263 of a kept row, is skipped:
the operation changes nothing, for any byte. That `off` stays too is the model's reading, log 14: R13 lets `skip` advance
`off`, R113 has ROW_FRAME do it, once. -/
def Obligations.PaddingOperationsSkip : Prop :=
  ∀ (s : State) (row bcol : Nat), Running s → bcol < 3264 → s.off.toNat = 32768 + 3264 * row + bcol →
    (1944 ≤ row → row ≤ 1951 → exec .rowDrop s = .next s) ∧
    (row < 1944 → 3240 ≤ bcol → exec .rowTrim s = .next s)

/-! ## Family 41 -/

/-- DATA_LATCH (R130): the byte of lane k of group g of kept row r goes to D[k]; the other three registers and
everything else stay; the advance of `off` is ROW_FRAME's (R113, log 14). -/
def Obligations.DataLatchHoldsByte : Prop :=
  ∀ (s : State) (r g k : Nat), Running s → r < 1944 → g < 648 → k < 4 →
    s.off.toNat = 32768 + 3264 * r + 5 * g + k → s.base.toNat + s.off.toNat < s.len.toNat →
    ∃ t, exec .dataLatch s = .next t ∧ t = { s with held := t.held } ∧
      t.held.get k = readIn s.inp (s.base.toNat + s.off.toNat) ∧
      ∀ j, j < 4 → j ≠ k → t.held.get j = s.held.get j

/-- GROUP_EMIT (R131): at the packing byte P of group g of row `row`, the four samples 4 D[k] + LOk go to columns
4g..4g+3, each to the plane its parities select, with zero in the other two planes; every other plane word and
everything else stays; the advance of `off` is ROW_FRAME's (R113, log 14). -/
def Obligations.GroupEmitWritesTwelveWords : Prop :=
  ∀ (s : State) (row g : Nat), Running s → row < 1944 → g < 648 →
    s.off.toNat = 32768 + 3264 * row + 5 * g + 4 → s.base.toNat + s.off.toNat < s.len.toNat →
    ∃ t, exec .groupEmit s = .next t ∧ t = { s with plane := t.plane } ∧
      (∀ k p, k < 4 → p < 3 → ∃ v : Sample, readPlane Geometry.bfu t.plane p row (4 * g + k) = some v ∧
        v.toNat = if p = (sel row (4 * g + k)).index then
            4 * (s.held.get k).toNat
              + (readIn s.inp (s.base.toNat + s.off.toNat)).toNat / 2 ^ (6 - 2 * k) % 4
          else 0) ∧
      (∀ p r c, p < 3 → r < 1944 → c < 2592 → ¬ (r = row ∧ c / 4 = g) →
        readPlane Geometry.bfu t.plane p r c = readPlane Geometry.bfu s.plane p r c)

/-- WIDEN (R132): the byte times four, in 10 bits: at most 1020, bits 1..0 zero, no bit lost; it returns that word and
changes nothing else. -/
def Obligations.WidenIsTimesFour : Prop :=
  ∀ (b : Byte) (s : State),
    ∃ w : Sample, exec (.widen b) s = .next { s with result := .sample w } ∧
      w.toNat = 4 * b.toNat ∧ w.toNat ≤ 1020 ∧ w.toNat % 4 = 0

/-- UNPACK_LOW (R133): for each lane the source's form, `Wk | ((W4 >> ((4 - k) * 2)) & 0b11)`, is what the operation
returns, and on the widened bytes it is 4 B + ((P div 2^(6 - 2k)) mod 4). -/
def Obligations.UnpackLowBothForms : Prop :=
  (∀ (wk w4 : Sample) (k : Nat) (s : State), k < 4 →
    exec (.unpackLow wk w4 k) s
      = .next { s with result := .sample (wk ||| ((w4 >>> ((4 - k) * 2)) &&& 0b11)) }) ∧
  (∀ (b p : Byte) (k : Nat) (s : State), k < 4 →
    ∃ v : Sample, exec (.unpackLow (widenByte b) (widenByte p) k) s = .next { s with result := .sample v } ∧
      v.toNat = 4 * b.toNat + p.toNat / 2 ^ (6 - 2 * k) % 4)

/-- PACK_REMOVE (R134): lane k of group g becomes column 4g + k for k in 0..3, and the packing byte, lane 4, yields
none; the columns of a row are exactly 0..2591, each once. -/
def Obligations.PackRemoveRenumbers : Prop :=
  (∀ (g k : Nat) (s : State), g < 648 → k < 4 →
    exec (.packRemove g k) s = .next { s with result := .column (some (4 * g + k)) }) ∧
  (∀ (g : Nat) (s : State), g < 648 →
    exec (.packRemove g 4) s = .next { s with result := .column none }) ∧
  (∀ c, c < 2592 → ∃ g k, g < 648 ∧ k < 4 ∧ c = 4 * g + k ∧
    ∀ g' k', k' < 4 → c = 4 * g' + k' → g' = g ∧ k' = k)

/-- R136: packing four samples and unpacking gives them back, and no other group of five bytes unpacks to them, so that
the map from groups to quadruples of samples is a bijection. -/
def Obligations.PackingIsBijective : Prop :=
  ∀ (v0 v1 v2 v3 : Sample) (b0 b1 b2 b3 p : Byte),
    (unpackPair (widenByte b0) (widenByte p) 0 = v0 ∧ unpackPair (widenByte b1) (widenByte p) 1 = v1 ∧
     unpackPair (widenByte b2) (widenByte p) 2 = v2 ∧ unpackPair (widenByte b3) (widenByte p) 3 = v3) ↔
    (b0 = packHigh v0 ∧ b1 = packHigh v1 ∧ b2 = packHigh v2 ∧ b3 = packHigh v3 ∧ p = packLow v0 v1 v2 v3)

/-- R140: the sample of a lane depends on that lane's data byte and the packing byte only. Two blocks at the packing byte
of the same group, with equal packing bytes and equal D[k], write the same three words in lane k. -/
def Obligations.LanesAreIndependent : Prop :=
  ∀ (s t s' t' : State) (k p : Nat), k < 4 → p < 3 → Running s → Running t → s.off = t.off →
    readIn s.inp (s.base.toNat + s.off.toNat) = readIn t.inp (t.base.toNat + t.off.toNat) →
    s.held.get k = t.held.get k →
    exec .groupEmit s = .next s' → exec .groupEmit t = .next t' →
    readPlane Geometry.bfu s'.plane p (rowAt Geometry.bfu s.off.toNat) (4 * groupAt Geometry.bfu s.off.toNat + k)
      = readPlane Geometry.bfu t'.plane p (rowAt Geometry.bfu s.off.toNat) (4 * groupAt Geometry.bfu s.off.toNat + k)

/-! ## Family 42 -/

/-- PLANE_SELECT (R151): each row of the parity table returns its plane and changes nothing else, and SEL(r, c) is that
table for every coordinate: (even, even) Green, (even, odd) Blue, (odd, even) Red, (odd, odd) Green. The planes' numbers
are Red 0, Green 1, Blue 2 (R7, R31), so SEL(r, c) in numbers is 1, 2, 0, 1. -/
def Obligations.PlaneSelectFollowsParity : Prop :=
  (∀ s : State,
    exec .planeSelectGreenE s = .next { s with result := .plane .green } ∧
    exec .planeSelectBlue s = .next { s with result := .plane .blue } ∧
    exec .planeSelectRed s = .next { s with result := .plane .red } ∧
    exec .planeSelectGreenO s = .next { s with result := .plane .green }) ∧
  (∀ r c : Nat,
    (r % 2 = 0 → c % 2 = 0 → sel r c = .green) ∧ (r % 2 = 0 → c % 2 = 1 → sel r c = .blue) ∧
    (r % 2 = 1 → c % 2 = 0 → sel r c = .red) ∧ (r % 2 = 1 → c % 2 = 1 → sel r c = .green)) ∧
  (Plane.red.index = 0 ∧ Plane.green.index = 1 ∧ Plane.blue.index = 2) ∧
  (∀ r c : Nat,
    (r % 2 = 0 → c % 2 = 0 → (sel r c).index = 1) ∧ (r % 2 = 0 → c % 2 = 1 → (sel r c).index = 2) ∧
    (r % 2 = 1 → c % 2 = 0 → (sel r c).index = 0) ∧ (r % 2 = 1 → c % 2 = 1 → (sel r c).index = 1))

/-- PLANE_ALLOC (R150), in the sequencer's form (the model's reading, log 15): while BUSY, zero at (r, c) in the two planes
not selected there; every other plane word and everything else stays. -/
def Obligations.PlaneAllocClearsUnselected : Prop :=
  ∀ (s : State) (r c : Nat), Running s → r < 1944 → c < 2592 →
    ∃ t, exec (.planeAlloc r c) s = .next t ∧ t = { s with plane := t.plane } ∧
      ∀ p r' c', p < 3 → r' < 1944 → c' < 2592 →
        readPlane Geometry.bfu t.plane p r' c'
          = if r' = r ∧ c' = c ∧ p ≠ (sel r c).index then some 0 else readPlane Geometry.bfu s.plane p r' c'

/-- PLANE_WRITE (R153): while BUSY, at (r, c) the sample in the plane SEL(r, c) and zero in the other two; every other
plane word and everything else stays. In the planes' numbers (R31, R151) the sample goes to plane 1 at (even, even) and
(odd, odd), to plane 2 at (even, odd) and to plane 0 at (odd, even). -/
def Obligations.PlaneWritePlacesSample : Prop :=
  ∀ (s : State) (r c : Nat) (v : Sample), Running s → r < 1944 → c < 2592 →
    ∃ t, exec (.planeWrite r c v) s = .next t ∧ t = { s with plane := t.plane } ∧
      (∀ p r' c', p < 3 → r' < 1944 → c' < 2592 →
        readPlane Geometry.bfu t.plane p r' c'
          = if r' = r ∧ c' = c then some (if p = (sel r c).index then v else 0)
            else readPlane Geometry.bfu s.plane p r' c') ∧
      ∀ p, p < 3 →
        (r % 2 = 0 → c % 2 = 0 → readPlane Geometry.bfu t.plane p r c = some (if p = 1 then v else 0)) ∧
        (r % 2 = 0 → c % 2 = 1 → readPlane Geometry.bfu t.plane p r c = some (if p = 2 then v else 0)) ∧
        (r % 2 = 1 → c % 2 = 0 → readPlane Geometry.bfu t.plane p r c = some (if p = 0 then v else 0)) ∧
        (r % 2 = 1 → c % 2 = 1 → readPlane Geometry.bfu t.plane p r c = some (if p = 1 then v else 0))

/-! ## Family 43 -/

/-- FINISH (R175): at off = 6,404,096 STATUS becomes DONE; CAUSE, off and all else stay. (The model's own field
`planeOpen`, log 10, is left to `NewDecodeIsNotOpen`.) -/
def Obligations.FinishSetsDone : Prop :=
  ∀ s : State, Running s → s.off.toNat = 6404096 →
    ∃ t, exec .finish s = .next t ∧ t = { s with status := .done, planeOpen := t.planeOpen }

/-- The model's own fields `outcomeOpen` and `planeOpen` (log 10): the decode an accepted START begins is not open, a
FINISH leaves no plane word open, and RESET clears both. -/
def Obligations.NewDecodeIsNotOpen : Prop :=
  (∀ s : State, s.status ≠ .busy → ∃ t, exec .start s = .next t ∧ t.outcomeOpen = false ∧ t.planeOpen = s.planeOpen) ∧
  (∀ s : State, Running s → s.off.toNat = 6404096 →
    ∃ t, exec .finish s = .next t ∧ t.outcomeOpen = false ∧ t.planeOpen = false) ∧
  (∀ s : State, ∃ t, exec .reset s = .next t ∧ t.outcomeOpen = false ∧ t.planeOpen = false)

/-- LEN_WRITE (R177): LEN takes the value and nothing else changes, in every state but BUSY, for all 2^32 values. -/
def Obligations.LenWriteSetsLen : Prop :=
  ∀ (v : LenWord) (s : State), s.status ≠ .busy → exec (.lenWrite v) s = .next { s with len := v }

/-- IN_WRITE (R179): the byte lands at its offset, every other byte of IN reads as before, and nothing else changes, in
every state but BUSY. -/
def Obligations.InWriteStoresByte : Prop :=
  ∀ (a : LenWord) (b : Byte) (s : State), s.status ≠ .busy →
    ∃ t, exec (.inWrite a b) s = .next t ∧ t = { s with inp := t.inp } ∧
      readIn t.inp a.toNat = b ∧ ∀ x, x ≠ a.toNat → readIn t.inp x = readIn s.inp x

/-- A host write of LEN or IN while BUSY, outside the contract (R224, R226; U4, the model's form, log 10): the write
happens (LEN is the value; IN holds the byte, every other offset as before), and the two fields that say that the outcome
is open become true, and nothing else changes. From then on the block's next step gives STATUS and CAUSE the codes of free
values and changes nothing else but the draws, and a PLANE_READ returns a free word. -/
def Obligations.HostWriteWhileBusyOpensOutcome : Prop :=
  (∀ (v : LenWord) (s : State), s.status = .busy →
    exec (.lenWrite v) s = .next { s with len := v, outcomeOpen := true, planeOpen := true }) ∧
  (∀ (a : LenWord) (b : Byte) (s : State), s.status = .busy →
    ∃ t, exec (.inWrite a b) s = .next t ∧ t = { s with inp := t.inp, outcomeOpen := true, planeOpen := true } ∧
      readIn t.inp a.toNat = b ∧ ∀ x, x ≠ a.toNat → readIn t.inp x = readIn s.inp x) ∧
  (∀ s : State, s.status = .busy → s.outcomeOpen = true →
    exec .step s
      = .next { s with status := statusOfCode (Config.freeStatusCode s.draws),
                       cause := causeOfCode (Config.freeCauseCode s.draws), draws := s.draws + 1 }) ∧
  (∀ (s : State) (p r c : Nat), s.planeOpen = true → p < 3 → r < 1944 → c < 2592 →
    exec (.planeRead p r c) s
      = .next { s with result := .word (Config.freePlaneWord s.draws), draws := s.draws + 1 })

/-- The host's register reads (derived from spec 43, section 4, and the register layouts of spec 10, section 4): in every
state LEN_READ, STATUS_READ and CAUSE_READ return LEN, the two bits of STATUS (IDLE 0, BUSY 1, DONE 2, ERROR 3) and the two
bits of CAUSE (NONE 0, SHORT_BUFFER 1, BAD_MARKER 2, BAD_FRAMING 3), and change nothing else but the model's own field
`result` (log 3). The last clause, that CAUSE_READ returns 0 unless STATUS is ERROR, assumes `MachineInv` and
`outcomeOpen = false`, that the host has not written IN or LEN during the decode. R181 makes no such exception; it is the
model's, log 10, since U4 then lets CAUSE be any value. -/
def Obligations.RegisterReadsReturnRegisters : Prop :=
  ∀ s : State,
    exec .lenRead s = .next { s with result := .len s.len } ∧
    (∃ v, exec .statusRead s = .next { s with result := .status v } ∧
      (s.status = .idle → v = 0) ∧ (s.status = .busy → v = 1) ∧ (s.status = .done → v = 2) ∧
      (s.status = .error → v = 3)) ∧
    (∃ v, exec .causeRead s = .next { s with result := .cause v } ∧
      (s.cause = .none → v = 0) ∧ (s.cause = .shortBuffer → v = 1) ∧ (s.cause = .badMarker → v = 2) ∧
      (s.cause = .badFraming → v = 3) ∧
      (MachineInv s → s.outcomeOpen = false → s.status ≠ .error → v = 0))

/-- The level outputs (R26, R200): `done` is high exactly in DONE and `error` exactly in ERROR, so never both, and they
carry what STATUS_READ returns; a high output is cleared only by START (or DECODE, or START's part FRAME_EXTRACT) or RESET. -/
def Obligations.LevelOutputsFollowStatus : Prop :=
  (∀ s : State, (doneOutput s = true ↔ s.status = .done) ∧ (errorOutput s = true ↔ s.status = .error) ∧
    ¬ (doneOutput s = true ∧ errorOutput s = true) ∧
    ∃ v, exec .statusRead s = .next { s with result := .status v } ∧ (doneOutput s = true ↔ v = 2) ∧
      (errorOutput s = true ↔ v = 3)) ∧
  (∀ (i : Instr) (s t : State), exec i s = .next t → i ≠ .start → i ≠ .decode → i ≠ .frameExtract → i ≠ .reset →
    (doneOutput s = true → doneOutput t = true) ∧ (errorOutput s = true → errorOutput t = true))

/-- PLANE_READ (R182): in DONE, under the invariant, every word of the plane space is there and is returned; in ERROR the
word from before the failed decode, where there is one; a word that holds no value faults (R34, D25), in IDLE each does;
a triple outside the plane space is refused (U6, log 11). Nothing but the returned value changes. -/
def Obligations.PlaneReadReturnsWord : Prop :=
  ∀ (s : State) (p r c : Nat),
    (p < 3 → r < 1944 → c < 2592 → s.status ≠ .busy → s.planeOpen = false →
      (∀ v, readPlane Geometry.bfu s.plane p r c = some v →
        exec (.planeRead p r c) s = .next { s with result := .word v }) ∧
      (readPlane Geometry.bfu s.plane p r c = none → exec (.planeRead p r c) s = .fault .planeNoValue)) ∧
    (p < 3 → r < 1944 → c < 2592 → MachineInv s → s.status = .done → s.planeOpen = false →
      ∃ v, readPlane Geometry.bfu s.plane p r c = some v ∧
        exec (.planeRead p r c) s = .next { s with result := .word v }) ∧
    (p < 3 → r < 1944 → c < 2592 → MachineInv s → s.status = .idle → s.outcomeOpen = false →
      exec (.planeRead p r c) s = .fault .planeNoValue) ∧
    (¬ (p < 3 ∧ r < 1944 ∧ c < 2592) → exec (.planeRead p r c) s = .refused .noSuchPlaneWord)

/-- PLANE_READ while BUSY (R225, U5), and, in any STATUS, of the planes of a decode whose outcome the host has opened (U4,
also after that decode has ended): the read completes, the returned word is a free value, and no state of the spec changes.
The free value's counter and `planeOpen` are the model's own fields (log 8, log 9, log 10). -/
def Obligations.PlaneReadWhileBusyIsFree : Prop :=
  ∀ (s : State) (p r c : Nat), s.status = .busy ∨ s.planeOpen = true → p < 3 → r < 1944 → c < 2592 →
    exec (.planeRead p r c) s
      = .next { s with result := .word (Config.freePlaneWord s.draws), draws := s.draws + 1 }

/-! ## Family 70 and the whole machine -/

/-- RESET (R220, R221): in every state, also while BUSY, STATUS becomes IDLE, CAUSE NONE, LEN 0 and off 0, no plane word
holds a value any more, and IN is not touched; `base` and D are unspecified (log 8). (Of the model's own fields the port and the
returned value stay; nothing is claimed here of the other three.) -/
def Obligations.ResetRestoresControlState : Prop :=
  ∀ s : State, ∃ t, exec .reset s = .next t ∧
    t = { s with status := .idle, cause := .none, len := 0, base := t.base, off := 0, held := t.held, plane := t.plane,
                 draws := t.draws, outcomeOpen := t.outcomeOpen, planeOpen := t.planeOpen } ∧
    ∀ p r c, readPlane Geometry.bfu t.plane p r c = none

/-- R26: which operation can change STATUS and how. START leads from IDLE, DONE or ERROR to BUSY or ERROR (FRAME_EXTRACT,
its part, to ERROR), FINISH leads from BUSY to DONE, a raise from BUSY to ERROR, reset from anywhere to IDLE. DECODE is
the composite of START, the block's steps and FINISH and is stated elsewhere. -/
def Obligations.StatusTransitions : Prop :=
  ∀ (i : Instr) (s t : State), i ≠ .decode → s.outcomeOpen = false → exec i s = .next t → t.status ≠ s.status →
    (i = .reset ∧ t.status = .idle) ∨
    (i = .start ∧ s.status ≠ .busy ∧ (t.status = .busy ∨ t.status = .error)) ∨
    (i = .frameExtract ∧ s.status ≠ .busy ∧ t.status = .error) ∨
    ((i = .finish ∨ i = .step) ∧ s.status = .busy ∧ s.off.toNat = 6404096 ∧ t.status = .done) ∨
    ((i = .markerCheck ∨ i = .step) ∧ s.status = .busy ∧ s.off.toNat ≤ 3 ∧ t.status = .error ∧
      t.cause = .badMarker)

/-- R198: ERROR and its cause stay until the next START (or DECODE, or START's part FRAME_EXTRACT) or reset. -/
def Obligations.ErrorPersists : Prop :=
  ∀ (i : Instr) (s t : State), s.status = .error → exec i s = .next t →
    i ≠ .start → i ≠ .decode → i ≠ .frameExtract → i ≠ .reset → t.status = .error ∧ t.cause = s.cause

/-- R54, R25: the block never writes IN or LEN. Only IN_WRITE changes IN; only LEN_WRITE and RESET change LEN. -/
def Obligations.BlockNeverWritesInput : Prop :=
  ∀ (i : Instr) (s t : State), exec i s = .next t →
    ((∀ a b, i ≠ .inWrite a b) → t.inp = s.inp) ∧
    ((∀ v, i ≠ .lenWrite v) → i ≠ .reset → t.len = s.len)

/-- R31, R62: no operation but RESET changes PLANE while STATUS is not BUSY, DECODE apart, which runs a decode; and while
BUSY only the operations that write plane words, the steps that contain them, DECODE and RESET do. -/
def Obligations.PlaneChangesOnlyByBlock : Prop :=
  ∀ (i : Instr) (s t : State), exec i s = .next t → i ≠ .reset → i ≠ .decode →
    (s.status ≠ .busy → t.plane = s.plane) ∧
    (i ≠ .rowFrame → i ≠ .groupEmit → i ≠ .step → (∀ r c, i ≠ .planeAlloc r c) → (∀ r c v, i ≠ .planeWrite r c v) →
      t.plane = s.plane)

/-- R21, R23, R28: the hidden registers. Only START, FRAME_EXTRACT, DECODE and RESET change `base`; only DATA_LATCH and
the steps that contain it, DECODE and RESET change D; only START, MARKER_CHECK, HEADER_SKIP, ROW_FRAME, STEP, DECODE and
RESET change `off`; the host's accesses and the pure operations change none of them. That FRAMING_CHECK, ROW_DROP, ROW_TRIM,
DATA_LATCH and GROUP_EMIT by themselves leave `off` is the model's reading, log 14: R13 lets the `skip` of ROW_DROP and
ROW_TRIM advance `off`, R113 has ROW_FRAME do it, once. -/
def Obligations.HiddenRegistersFrame : Prop :=
  ∀ (i : Instr) (s t : State), exec i s = .next t → i ≠ .decode → i ≠ .reset →
    (i ≠ .start → i ≠ .frameExtract → t.base = s.base) ∧
    (i ≠ .dataLatch → i ≠ .rowFrame → i ≠ .step → t.held = s.held) ∧
    (i ≠ .start → i ≠ .markerCheck → i ≠ .headerSkip → i ≠ .rowFrame → i ≠ .step → t.off = s.off)

/-- The value operations, LEN_READ, STATUS_READ, CAUSE_READ, PLANE_READ, WIDEN, UNPACK_LOW, PACK_REMOVE and the four
PLANE_SELECT rows, have no side effect on any state of the spec (R56, R178, R180 to R182): only the returned value and
the free values' counter may change. -/
def Obligations.ValueOperationsHaveNoSideEffect : Prop :=
  ∀ (i : Instr) (s t : State), exec i s = .next t →
    (i = .lenRead ∨ i = .statusRead ∨ i = .causeRead ∨ (∃ p r c, i = .planeRead p r c) ∨ (∃ b, i = .widen b) ∨
      (∃ x y k, i = .unpackLow x y k) ∨ (∃ g k, i = .packRemove g k) ∨ i = .planeSelectGreenE ∨
      i = .planeSelectBlue ∨ i = .planeSelectRed ∨ i = .planeSelectGreenO) →
    t = { s with result := t.result, draws := t.draws }

/-- R20, R91: a block operation acts only while STATUS is BUSY; elsewhere the model gives it no meaning (log 13). -/
def Obligations.BlockOperationsNeedBusy : Prop :=
  ∀ (i : Instr) (s : State), s.status ≠ .busy →
    (i = .markerCheck ∨ i = .headerSkip ∨ i = .rowFrame ∨ i = .framingCheck ∨ i = .rowDrop ∨ i = .rowTrim ∨
      i = .dataLatch ∨ i = .groupEmit ∨ i = .finish ∨ (∃ r c, i = .planeAlloc r c) ∨ ∃ r c v, i = .planeWrite r c v) →
    exec i s = .refused .notSelected
end

