-- ==== Sys2Proof/Laws/Config.lean ====
section
/-! SUPPORT. The hardware's constants as numerals (R6), and that they satisfy R8's constraints. -/

namespace Sys2Proof

@[simp] theorem bfu_frameBytes : Geometry.bfu.frameBytes = 6404096 := by decide
@[simp] theorem bfu_headerBytes : Geometry.bfu.headerBytes = 32768 := by decide
@[simp] theorem bfu_rowsTotal : Geometry.bfu.rowsTotal = 1952 := by decide
@[simp] theorem bfu_rowStride : Geometry.bfu.rowStride = 3264 := by decide
@[simp] theorem bfu_rowsKept : Geometry.bfu.rowsKept = 1944 := by decide
@[simp] theorem bfu_rowBytesKept : Geometry.bfu.rowBytesKept = 3240 := by decide
@[simp] theorem bfu_groupsPerRow : Geometry.bfu.groupsPerRow = 648 := by decide
@[simp] theorem bfu_cols : Geometry.bfu.cols = 2592 := by decide
@[simp] theorem bfu_planeWords : Geometry.bfu.planeWords = 15116544 := by decide
@[simp] theorem bfu_dataBytes : Geometry.bfu.dataBytes = 6371328 := by decide
@[simp] theorem bfu_padRows : Geometry.bfu.padRows = 8 := by decide
@[simp] theorem bfu_rowPadBytes : Geometry.bfu.rowPadBytes = 24 := by decide

/-- CFG1 to CFG4 hold of the hardware and of the record TOY (R8, D19). -/
theorem bfu_ok : Geometry.bfu.ok = true := by decide
theorem toy_ok : Geometry.toy.ok = true := by decide

end Sys2Proof
end

