-- ==== Sys2Proof/Laws/Decode.lean ====
section
/-! SUPPORT. Small lemmas of the decoder: names, numbers in bytes, and how a named operation's bytes decode. -/

namespace Sys2Proof

/-- A name without a zero byte, ended by one, is taken whole. -/
theorem takeName_append (n rest : List Byte) (h : ∀ b ∈ n, b ≠ 0) : takeName (n ++ 0 :: rest) = some (n, rest) := by
  induction n with
  | nil => simp [takeName]
  | cons b n ih =>
    have hb : b ≠ 0 := h b (by simp)
    rw [List.cons_append, takeName, if_neg hb, ih (fun x hx => h x (by simp [hx]))]

/-- Different operations have different names. -/
theorem ofName_name (o : Opcode) : Opcode.ofName o.name = some o := by cases o <;> decide

theorem name_ne_zero (o : Opcode) : ∀ b ∈ o.name, b ≠ 0 := by cases o <;> decide

/-- A name begins with a letter and is not the marker word's beginning. -/
theorem name_head (o : Opcode) :
    ∃ b0 b1 n, o.name = b0 :: b1 :: n ∧ ¬ b0.toNat < 32 ∧ b0 ≠ 0x42 := by
  cases o <;> exact ⟨_, _, _, rfl, by decide, by decide⟩

/-- Two bytes carry a number below 65,536. -/
theorem num2_bytes2 {n : Nat} (h : n < 65536) : num2 (BitVec.ofNat 8 (n / 256)) (BitVec.ofNat 8 n) = n := by
  simp only [num2, BitVec.toNat_ofNat]
  omega

/-- Four bytes carry a number below 2^32. -/
theorem num4_bytes4 {n : Nat} (h : n < 4294967296) :
    num4 (BitVec.ofNat 8 (n / 16777216)) (BitVec.ofNat 8 (n / 65536)) (BitVec.ofNat 8 (n / 256)) (BitVec.ofNat 8 n)
      = n := by
  simp only [num4, BitVec.toNat_ofNat]
  omega

/-- The bytes of a named operation decode by its operands. -/
theorem decode_named (o : Opcode) (ops rest : List Byte) :
    decode (named o ops ++ rest) = operandsOf o (ops ++ rest) := by
  obtain ⟨b0, b1, n, hn, h32, hB⟩ := name_head o
  have ht : takeName (o.name ++ 0 :: (ops ++ rest)) = some (o.name, ops ++ rest) :=
    takeName_append _ _ (name_ne_zero o)
  have ho := ofName_name o
  have heq : named o ops ++ rest = b0 :: (b1 :: n ++ 0 :: (ops ++ rest)) := by simp [named, hn]
  have ht' : takeName (b0 :: (b1 :: n ++ 0 :: (ops ++ rest))) = some (o.name, ops ++ rest) := by
    rw [← ht, hn]
    rfl
  have hm : ¬ (b0 :: (b1 :: n ++ 0 :: (ops ++ rest))).take 4 = marker := by
    intro hm
    have := congrArg List.head? hm
    simp [marker] at this
    exact hB this
  rw [heq]
  unfold decode
  simp only [h32, hm, if_false, ht', ho]

end Sys2Proof
end

