-- ==== Sys2Proof/Laws/Operands.lean ====
section
/-! SUPPORT. Where a frame offset stands: row, byte column, group and lane of A(r, g, k), and back (R24, R117). -/

namespace Sys2Proof.Machine

/-- A(r, g, k) as a numeral expression (R117). -/
theorem keptOffset_eq (r g k : Nat) : keptOffset Geometry.bfu r g k = 32768 + 3264 * r + 5 * g + k := by
  simp [keptOffset]

theorem rowAt_keptOffset (r : Nat) {g k : Nat} (hg : g < 648) (hk : k < 5) :
    rowAt Geometry.bfu (keptOffset Geometry.bfu r g k) = r := by
  rw [keptOffset_eq, rowAt, bfu_headerBytes, bfu_rowStride]
  omega

theorem bcolAt_keptOffset (r : Nat) {g k : Nat} (hg : g < 648) (hk : k < 5) :
    bcolAt Geometry.bfu (keptOffset Geometry.bfu r g k) = 5 * g + k := by
  have h : 32768 + 3264 * r + 5 * g + k - 32768 = 3264 * r + (5 * g + k) := by omega
  rw [keptOffset_eq, bcolAt, bfu_headerBytes, bfu_rowStride, h, Nat.mul_add_mod, Nat.mod_eq_of_lt (by omega)]

theorem groupAt_keptOffset (r : Nat) {g k : Nat} (hg : g < 648) (hk : k < 5) :
    groupAt Geometry.bfu (keptOffset Geometry.bfu r g k) = g := by
  rw [groupAt, bcolAt_keptOffset r hg hk]
  omega

theorem laneAt_keptOffset (r : Nat) {g k : Nat} (hg : g < 648) (hk : k < 5) :
    laneAt Geometry.bfu (keptOffset Geometry.bfu r g k) = k := by
  rw [laneAt, bcolAt_keptOffset r hg hk]
  omega

/-- The map A is injective on the kept bytes (R117). -/
theorem keptOffset_injective {r g k r' g' k' : Nat} (hg : g < 648) (hk : k < 5) (hg' : g' < 648) (hk' : k' < 5)
    (h : keptOffset Geometry.bfu r g k = keptOffset Geometry.bfu r' g' k') : r = r' ∧ g = g' ∧ k = k' := by
  refine ⟨?_, ?_, ?_⟩
  · rw [← rowAt_keptOffset r hg hk, h, rowAt_keptOffset r' hg' hk']
  · rw [← groupAt_keptOffset r hg hk, h, groupAt_keptOffset r' hg' hk']
  · rw [← laneAt_keptOffset r hg hk, h, laneAt_keptOffset r' hg' hk']

/-- A frame offset of the data area from its row and byte column (R24). -/
theorem off_eq_row_bcol {off : Nat} (h : 32768 ≤ off) :
    off = 32768 + 3264 * rowAt Geometry.bfu off + bcolAt Geometry.bfu off := by
  simp only [rowAt, bcolAt, bfu_headerBytes, bfu_rowStride]
  omega

/-- A kept byte is at A of its row, group and lane (R117). -/
theorem off_eq_keptOffset {off : Nat} (h : 32768 ≤ off) :
    off = keptOffset Geometry.bfu (rowAt Geometry.bfu off) (groupAt Geometry.bfu off) (laneAt Geometry.bfu off) := by
  have := off_eq_row_bcol h
  simp only [keptOffset_eq, groupAt, laneAt]
  omega

end Sys2Proof.Machine
end

