-- ==== Sys2Proof/Laws/State.lean ====
section
/-! SUPPORT. One lemma per field per state update, so that no later proof unfolds a record update. -/

namespace Sys2Proof.Machine

/-! `off <- off + 1` (R23). -/

@[simp] theorem advance_status (s : State) : (advance s).status = s.status := rfl
@[simp] theorem advance_cause (s : State) : (advance s).cause = s.cause := rfl
@[simp] theorem advance_len (s : State) : (advance s).len = s.len := rfl
@[simp] theorem advance_base (s : State) : (advance s).base = s.base := rfl
@[simp] theorem advance_off (s : State) : (advance s).off = s.off + 1 := rfl
@[simp] theorem advance_held (s : State) : (advance s).held = s.held := rfl
@[simp] theorem advance_inp (s : State) : (advance s).inp = s.inp := rfl
@[simp] theorem advance_plane (s : State) : (advance s).plane = s.plane := rfl
@[simp] theorem advance_port (s : State) : (advance s).port = s.port := rfl
@[simp] theorem advance_result (s : State) : (advance s).result = s.result := rfl
@[simp] theorem advance_draws (s : State) : (advance s).draws = s.draws := rfl
@[simp] theorem advance_outcomeOpen (s : State) : (advance s).outcomeOpen = s.outcomeOpen := rfl
@[simp] theorem advance_planeOpen (s : State) : (advance s).planeOpen = s.planeOpen := rfl

/-! `base <- LEN - FRAME_BYTES` (R110). -/

@[simp] theorem latchBase_status (G : Geometry) (s : State) : (latchBase G s).status = s.status := rfl
@[simp] theorem latchBase_cause (G : Geometry) (s : State) : (latchBase G s).cause = s.cause := rfl
@[simp] theorem latchBase_len (G : Geometry) (s : State) : (latchBase G s).len = s.len := rfl
@[simp] theorem latchBase_base (G : Geometry) (s : State) : (latchBase G s).base = s.len - BitVec.ofNat 32 G.frameBytes := rfl
@[simp] theorem latchBase_off (G : Geometry) (s : State) : (latchBase G s).off = s.off := rfl
@[simp] theorem latchBase_held (G : Geometry) (s : State) : (latchBase G s).held = s.held := rfl
@[simp] theorem latchBase_inp (G : Geometry) (s : State) : (latchBase G s).inp = s.inp := rfl
@[simp] theorem latchBase_plane (G : Geometry) (s : State) : (latchBase G s).plane = s.plane := rfl
@[simp] theorem latchBase_port (G : Geometry) (s : State) : (latchBase G s).port = s.port := rfl
@[simp] theorem latchBase_result (G : Geometry) (s : State) : (latchBase G s).result = s.result := rfl
@[simp] theorem latchBase_draws (G : Geometry) (s : State) : (latchBase G s).draws = s.draws := rfl
@[simp] theorem latchBase_outcomeOpen (G : Geometry) (s : State) : (latchBase G s).outcomeOpen = s.outcomeOpen := rfl
@[simp] theorem latchBase_planeOpen (G : Geometry) (s : State) : (latchBase G s).planeOpen = s.planeOpen := rfl

/-! A new PLANE. -/

@[simp] theorem setPlane_status (m : PlaneMem) (s : State) : (setPlane m s).status = s.status := rfl
@[simp] theorem setPlane_cause (m : PlaneMem) (s : State) : (setPlane m s).cause = s.cause := rfl
@[simp] theorem setPlane_len (m : PlaneMem) (s : State) : (setPlane m s).len = s.len := rfl
@[simp] theorem setPlane_base (m : PlaneMem) (s : State) : (setPlane m s).base = s.base := rfl
@[simp] theorem setPlane_off (m : PlaneMem) (s : State) : (setPlane m s).off = s.off := rfl
@[simp] theorem setPlane_held (m : PlaneMem) (s : State) : (setPlane m s).held = s.held := rfl
@[simp] theorem setPlane_inp (m : PlaneMem) (s : State) : (setPlane m s).inp = s.inp := rfl
@[simp] theorem setPlane_plane (m : PlaneMem) (s : State) : (setPlane m s).plane = m := rfl
@[simp] theorem setPlane_port (m : PlaneMem) (s : State) : (setPlane m s).port = s.port := rfl
@[simp] theorem setPlane_result (m : PlaneMem) (s : State) : (setPlane m s).result = s.result := rfl
@[simp] theorem setPlane_draws (m : PlaneMem) (s : State) : (setPlane m s).draws = s.draws := rfl
@[simp] theorem setPlane_outcomeOpen (m : PlaneMem) (s : State) : (setPlane m s).outcomeOpen = s.outcomeOpen := rfl
@[simp] theorem setPlane_planeOpen (m : PlaneMem) (s : State) : (setPlane m s).planeOpen = s.planeOpen := rfl

/-! A returned value (log 3). -/

@[simp] theorem answer_status (v : Result) (s : State) : (answer v s).status = s.status := rfl
@[simp] theorem answer_cause (v : Result) (s : State) : (answer v s).cause = s.cause := rfl
@[simp] theorem answer_len (v : Result) (s : State) : (answer v s).len = s.len := rfl
@[simp] theorem answer_base (v : Result) (s : State) : (answer v s).base = s.base := rfl
@[simp] theorem answer_off (v : Result) (s : State) : (answer v s).off = s.off := rfl
@[simp] theorem answer_held (v : Result) (s : State) : (answer v s).held = s.held := rfl
@[simp] theorem answer_inp (v : Result) (s : State) : (answer v s).inp = s.inp := rfl
@[simp] theorem answer_plane (v : Result) (s : State) : (answer v s).plane = s.plane := rfl
@[simp] theorem answer_port (v : Result) (s : State) : (answer v s).port = s.port := rfl
@[simp] theorem answer_result (v : Result) (s : State) : (answer v s).result = v := rfl
@[simp] theorem answer_draws (v : Result) (s : State) : (answer v s).draws = s.draws := rfl
@[simp] theorem answer_outcomeOpen (v : Result) (s : State) : (answer v s).outcomeOpen = s.outcomeOpen := rfl
@[simp] theorem answer_planeOpen (v : Result) (s : State) : (answer v s).planeOpen = s.planeOpen := rfl

/-! The trap: STATUS and CAUSE, and nothing else (R194). -/

@[simp] theorem raise_status (c : Cause) (s : State) : (raise c s).status = .error := rfl
@[simp] theorem raise_cause (c : Cause) (s : State) : (raise c s).cause = c := rfl
@[simp] theorem raise_len (c : Cause) (s : State) : (raise c s).len = s.len := rfl
@[simp] theorem raise_base (c : Cause) (s : State) : (raise c s).base = s.base := rfl
@[simp] theorem raise_off (c : Cause) (s : State) : (raise c s).off = s.off := rfl
@[simp] theorem raise_held (c : Cause) (s : State) : (raise c s).held = s.held := rfl
@[simp] theorem raise_inp (c : Cause) (s : State) : (raise c s).inp = s.inp := rfl
@[simp] theorem raise_plane (c : Cause) (s : State) : (raise c s).plane = s.plane := rfl
@[simp] theorem raise_port (c : Cause) (s : State) : (raise c s).port = s.port := rfl
@[simp] theorem raise_result (c : Cause) (s : State) : (raise c s).result = s.result := rfl
@[simp] theorem raise_draws (c : Cause) (s : State) : (raise c s).draws = s.draws := rfl
@[simp] theorem raise_outcomeOpen (c : Cause) (s : State) : (raise c s).outcomeOpen = s.outcomeOpen := rfl
@[simp] theorem raise_planeOpen (c : Cause) (s : State) : (raise c s).planeOpen = s.planeOpen := rfl

/-! A decode begins (R170). -/

@[simp] theorem enterBusy_status (s : State) : (enterBusy s).status = .busy := rfl
@[simp] theorem enterBusy_cause (s : State) : (enterBusy s).cause = .none := rfl
@[simp] theorem enterBusy_len (s : State) : (enterBusy s).len = s.len := rfl
@[simp] theorem enterBusy_base (s : State) : (enterBusy s).base = s.base := rfl
@[simp] theorem enterBusy_off (s : State) : (enterBusy s).off = 0 := rfl
@[simp] theorem enterBusy_held (s : State) : (enterBusy s).held = s.held := rfl
@[simp] theorem enterBusy_inp (s : State) : (enterBusy s).inp = s.inp := rfl
@[simp] theorem enterBusy_plane (s : State) : (enterBusy s).plane = s.plane := rfl
@[simp] theorem enterBusy_port (s : State) : (enterBusy s).port = s.port := rfl
@[simp] theorem enterBusy_result (s : State) : (enterBusy s).result = s.result := rfl
@[simp] theorem enterBusy_draws (s : State) : (enterBusy s).draws = s.draws := rfl
@[simp] theorem enterBusy_outcomeOpen (s : State) : (enterBusy s).outcomeOpen = false := rfl
@[simp] theorem enterBusy_planeOpen (s : State) : (enterBusy s).planeOpen = s.planeOpen := rfl

/-! FINISH (R175). -/

@[simp] theorem finish_status (s : State) : (finish s).status = .done := rfl
@[simp] theorem finish_cause (s : State) : (finish s).cause = s.cause := rfl
@[simp] theorem finish_len (s : State) : (finish s).len = s.len := rfl
@[simp] theorem finish_base (s : State) : (finish s).base = s.base := rfl
@[simp] theorem finish_off (s : State) : (finish s).off = s.off := rfl
@[simp] theorem finish_held (s : State) : (finish s).held = s.held := rfl
@[simp] theorem finish_inp (s : State) : (finish s).inp = s.inp := rfl
@[simp] theorem finish_plane (s : State) : (finish s).plane = s.plane := rfl
@[simp] theorem finish_port (s : State) : (finish s).port = s.port := rfl
@[simp] theorem finish_result (s : State) : (finish s).result = s.result := rfl
@[simp] theorem finish_draws (s : State) : (finish s).draws = s.draws := rfl
@[simp] theorem finish_outcomeOpen (s : State) : (finish s).outcomeOpen = s.outcomeOpen := rfl
@[simp] theorem finish_planeOpen (s : State) : (finish s).planeOpen = false := rfl

/-! A step of an open decode (log 10). -/

@[simp] theorem openStep_status (s : State) : (openStep s).status = statusOfCode (Config.freeStatusCode s.draws) := rfl
@[simp] theorem openStep_cause (s : State) : (openStep s).cause = causeOfCode (Config.freeCauseCode s.draws) := rfl
@[simp] theorem openStep_len (s : State) : (openStep s).len = s.len := rfl
@[simp] theorem openStep_base (s : State) : (openStep s).base = s.base := rfl
@[simp] theorem openStep_off (s : State) : (openStep s).off = s.off := rfl
@[simp] theorem openStep_held (s : State) : (openStep s).held = s.held := rfl
@[simp] theorem openStep_inp (s : State) : (openStep s).inp = s.inp := rfl
@[simp] theorem openStep_plane (s : State) : (openStep s).plane = s.plane := rfl
@[simp] theorem openStep_port (s : State) : (openStep s).port = s.port := rfl
@[simp] theorem openStep_result (s : State) : (openStep s).result = s.result := rfl
@[simp] theorem openStep_draws (s : State) : (openStep s).draws = s.draws + 1 := rfl
@[simp] theorem openStep_outcomeOpen (s : State) : (openStep s).outcomeOpen = s.outcomeOpen := rfl
@[simp] theorem openStep_planeOpen (s : State) : (openStep s).planeOpen = s.planeOpen := rfl

/-! DATA_LATCH writes D only (R130). -/

@[simp] theorem latchByte_status (G : Geometry) (b : Byte) (s : State) : (latchByte G b s).status = s.status := rfl
@[simp] theorem latchByte_cause (G : Geometry) (b : Byte) (s : State) : (latchByte G b s).cause = s.cause := rfl
@[simp] theorem latchByte_len (G : Geometry) (b : Byte) (s : State) : (latchByte G b s).len = s.len := rfl
@[simp] theorem latchByte_base (G : Geometry) (b : Byte) (s : State) : (latchByte G b s).base = s.base := rfl
@[simp] theorem latchByte_off (G : Geometry) (b : Byte) (s : State) : (latchByte G b s).off = s.off := rfl
@[simp] theorem latchByte_held (G : Geometry) (b : Byte) (s : State) : (latchByte G b s).held = s.held.set (laneAt G s.off.toNat) b := rfl
@[simp] theorem latchByte_inp (G : Geometry) (b : Byte) (s : State) : (latchByte G b s).inp = s.inp := rfl
@[simp] theorem latchByte_plane (G : Geometry) (b : Byte) (s : State) : (latchByte G b s).plane = s.plane := rfl
@[simp] theorem latchByte_port (G : Geometry) (b : Byte) (s : State) : (latchByte G b s).port = s.port := rfl
@[simp] theorem latchByte_result (G : Geometry) (b : Byte) (s : State) : (latchByte G b s).result = s.result := rfl
@[simp] theorem latchByte_draws (G : Geometry) (b : Byte) (s : State) : (latchByte G b s).draws = s.draws := rfl
@[simp] theorem latchByte_outcomeOpen (G : Geometry) (b : Byte) (s : State) : (latchByte G b s).outcomeOpen = s.outcomeOpen := rfl
@[simp] theorem latchByte_planeOpen (G : Geometry) (b : Byte) (s : State) : (latchByte G b s).planeOpen = s.planeOpen := rfl

/-! GROUP_EMIT writes PLANE only (R131). -/

@[simp] theorem emitGroup_status (G : Geometry) (p : Byte) (s : State) : (emitGroup G p s).status = s.status := rfl
@[simp] theorem emitGroup_cause (G : Geometry) (p : Byte) (s : State) : (emitGroup G p s).cause = s.cause := rfl
@[simp] theorem emitGroup_len (G : Geometry) (p : Byte) (s : State) : (emitGroup G p s).len = s.len := rfl
@[simp] theorem emitGroup_base (G : Geometry) (p : Byte) (s : State) : (emitGroup G p s).base = s.base := rfl
@[simp] theorem emitGroup_off (G : Geometry) (p : Byte) (s : State) : (emitGroup G p s).off = s.off := rfl
@[simp] theorem emitGroup_held (G : Geometry) (p : Byte) (s : State) : (emitGroup G p s).held = s.held := rfl
@[simp] theorem emitGroup_inp (G : Geometry) (p : Byte) (s : State) : (emitGroup G p s).inp = s.inp := rfl
@[simp] theorem emitGroup_plane (G : Geometry) (p : Byte) (s : State) : (emitGroup G p s).plane = emitLanes G (rowAt G s.off.toNat) (groupAt G s.off.toNat) s.held p s.plane := rfl
@[simp] theorem emitGroup_port (G : Geometry) (p : Byte) (s : State) : (emitGroup G p s).port = s.port := rfl
@[simp] theorem emitGroup_result (G : Geometry) (p : Byte) (s : State) : (emitGroup G p s).result = s.result := rfl
@[simp] theorem emitGroup_draws (G : Geometry) (p : Byte) (s : State) : (emitGroup G p s).draws = s.draws := rfl
@[simp] theorem emitGroup_outcomeOpen (G : Geometry) (p : Byte) (s : State) : (emitGroup G p s).outcomeOpen = s.outcomeOpen := rfl
@[simp] theorem emitGroup_planeOpen (G : Geometry) (p : Byte) (s : State) : (emitGroup G p s).planeOpen = s.planeOpen := rfl

/-! A host write while BUSY opens the outcome and the planes; nothing else changes (log 10). -/

@[simp] theorem breakContract_status (s : State) : (breakContract s).status = s.status := by
  unfold breakContract; split <;> rfl
@[simp] theorem breakContract_cause (s : State) : (breakContract s).cause = s.cause := by
  unfold breakContract; split <;> rfl
@[simp] theorem breakContract_len (s : State) : (breakContract s).len = s.len := by
  unfold breakContract; split <;> rfl
@[simp] theorem breakContract_base (s : State) : (breakContract s).base = s.base := by
  unfold breakContract; split <;> rfl
@[simp] theorem breakContract_off (s : State) : (breakContract s).off = s.off := by
  unfold breakContract; split <;> rfl
@[simp] theorem breakContract_held (s : State) : (breakContract s).held = s.held := by
  unfold breakContract; split <;> rfl
@[simp] theorem breakContract_inp (s : State) : (breakContract s).inp = s.inp := by
  unfold breakContract; split <;> rfl
@[simp] theorem breakContract_plane (s : State) : (breakContract s).plane = s.plane := by
  unfold breakContract; split <;> rfl
@[simp] theorem breakContract_port (s : State) : (breakContract s).port = s.port := by
  unfold breakContract; split <;> rfl
@[simp] theorem breakContract_result (s : State) : (breakContract s).result = s.result := by
  unfold breakContract; split <;> rfl
@[simp] theorem breakContract_draws (s : State) : (breakContract s).draws = s.draws := by
  unfold breakContract; split <;> rfl
@[simp] theorem breakContract_outcomeOpen (s : State) :
    (breakContract s).outcomeOpen = if s.status = .busy then true else s.outcomeOpen := by
  unfold breakContract; split <;> rfl
@[simp] theorem breakContract_planeOpen (s : State) :
    (breakContract s).planeOpen = if s.status = .busy then true else s.planeOpen := by
  unfold breakContract; split <;> rfl

end Sys2Proof.Machine
end

