-- ==== Sys2Proof/Laws/Ops.lean ====
section
/-! SUPPORT. What the shared operations over memory can do: read after write, the canonical forms, and when two
memories in canonical form are equal. -/

namespace Sys2Proof.Machine

variable {w : Nat}

/-! ## Cells -/

theorem cellGet_eq_none_of_forall_ne {m : List (Nat × BitVec w)} {a : Nat} (h : ∀ x ∈ m, x.1 ≠ a) :
    cellGet m a = none := by
  induction m with
  | nil => rfl
  | cons x m ih =>
    have hx : x.1 ≠ a := h x (by simp)
    simp [cellGet, hx, ih (fun y hy => h y (by simp [hy]))]

theorem cellGet_eq_none_of_lt {m : List (Nat × BitVec w)} {a : Nat} (h : ∀ x ∈ m, a < x.1) : cellGet m a = none :=
  cellGet_eq_none_of_forall_ne fun x hx => Nat.ne_of_gt (h x hx)

theorem mem_of_cellGet {m : List (Nat × BitVec w)} {a : Nat} {v : BitVec w} (h : cellGet m a = some v) :
    (a, v) ∈ m := by
  induction m with
  | nil => simp [cellGet] at h
  | cons x m ih =>
    obtain ⟨k, u⟩ := x
    by_cases hk : k = a
    · subst hk
      simp [cellGet] at h
      simp [h]
    · simp [cellGet, hk] at h
      simp [ih h]

theorem cellGet_of_mem {m : List (Nat × BitVec w)} (hr : Rising m) {a : Nat} {v : BitVec w} (h : (a, v) ∈ m) :
    cellGet m a = some v := by
  induction m with
  | nil => simp at h
  | cons x m ih =>
    obtain ⟨k, u⟩ := x
    obtain ⟨hk, hr⟩ := List.pairwise_cons.mp hr
    rcases List.mem_cons.mp h with h | h
    · cases h
      simp [cellGet]
    · have : k < a := hk _ h
      simp [cellGet, Nat.ne_of_lt this, ih hr h]

/-- Reading after writing a cell: the value there, and every other cell as before. -/
theorem cellGet_cellSet (m : List (Nat × BitVec w)) (a b : Nat) (v : BitVec w) :
    cellGet (cellSet m a v) b = if b = a then some v else cellGet m b := by
  induction m with
  | nil => by_cases h : a = b <;> simp [cellSet, cellGet, h, eq_comm]
  | cons x m ih =>
    obtain ⟨k, u⟩ := x
    rcases Nat.lt_trichotomy a k with h | h | h
    · by_cases hb : a = b
      · subst hb
        simp [cellSet, cellGet, h]
      · simp [cellSet, cellGet, h, hb, Ne.symm hb]
    · subst h
      by_cases hb : a = b
      · simp [cellSet, cellGet, hb]
      · simp [cellSet, cellGet, hb, Ne.symm hb]
    · have h1 : ¬ a < k := by omega
      have h2 : a ≠ k := by omega
      simp only [cellSet, h1, h2, if_false, cellGet, ih]
      by_cases hk : k = b
      · subst hk
        simp [Nat.ne_of_lt h]
      · simp [hk]

@[simp] theorem cellGet_cellSet_self (m : List (Nat × BitVec w)) (a : Nat) (v : BitVec w) :
    cellGet (cellSet m a v) a = some v := by simp [cellGet_cellSet]

theorem cellGet_cellSet_of_ne (m : List (Nat × BitVec w)) {a b : Nat} (v : BitVec w) (h : b ≠ a) :
    cellGet (cellSet m a v) b = cellGet m b := by simp [cellGet_cellSet, h]

theorem mem_cellSet {m : List (Nat × BitVec w)} {a : Nat} {v : BitVec w} {x : Nat × BitVec w}
    (h : x ∈ cellSet m a v) : x = (a, v) ∨ x ∈ m := by
  induction m with
  | nil => simpa [cellSet] using h
  | cons y m ih =>
    obtain ⟨k, u⟩ := y
    simp only [cellSet] at h
    split at h
    · simpa using h
    · split at h
      · rcases List.mem_cons.mp h with h | h
        · exact .inl h
        · exact .inr (by simp [h])
      · rcases List.mem_cons.mp h with h | h
        · exact .inr (by simp [h])
        · rcases ih h with h | h
          · exact .inl h
          · exact .inr (by simp [h])

/-- Writing a cell keeps the keys rising. -/
theorem rising_cellSet {m : List (Nat × BitVec w)} (hr : Rising m) (a : Nat) (v : BitVec w) :
    Rising (cellSet m a v) := by
  induction m with
  | nil => simp [cellSet, Rising]
  | cons x m ih =>
    obtain ⟨k, u⟩ := x
    obtain ⟨hk, hr'⟩ := List.pairwise_cons.mp hr
    simp only [cellSet]
    split
    · refine List.pairwise_cons.mpr ⟨?_, hr⟩
      intro y hy
      rcases List.mem_cons.mp hy with rfl | hy
      · assumption
      · have := hk y hy
        simp only at this ⊢
        omega
    · split
      · next h1 h2 =>
        subst h2
        exact List.pairwise_cons.mpr ⟨hk, hr'⟩
      · refine List.pairwise_cons.mpr ⟨?_, ih hr'⟩
        intro y hy
        rcases mem_cellSet hy with rfl | hy
        · simp only
          omega
        · exact hk y hy

theorem mem_cellErase {m : List (Nat × BitVec w)} {a : Nat} {x : Nat × BitVec w} :
    x ∈ cellErase m a ↔ x ∈ m ∧ x.1 ≠ a := by simp [cellErase]

theorem rising_cellErase {m : List (Nat × BitVec w)} (hr : Rising m) (a : Nat) : Rising (cellErase m a) :=
  hr.filter _

/-- Reading after erasing a cell. -/
theorem cellGet_cellErase (m : List (Nat × BitVec w)) (a b : Nat) :
    cellGet (cellErase m a) b = if b = a then none else cellGet m b := by
  induction m with
  | nil => simp [cellErase, cellGet]
  | cons x m ih =>
    obtain ⟨k, u⟩ := x
    have ih' : cellGet (List.filter (fun x => x.1 != a) m) b = if b = a then none else cellGet m b := ih
    by_cases hk : k = a
    · subst hk
      by_cases hb : b = k
      · subst hb
        simpa [cellErase] using ih'
      · simp [cellErase, cellGet, ih', hb, Ne.symm hb]
    · by_cases hb : k = b
      · subst hb
        simp [cellErase, cellGet, hk]
      · simp [cellErase, cellGet, hk, hb, ih']

/-- Two rising lists of cells that read the same are the same list: the canonical form is canonical. -/
theorem eq_of_cellGet_eq {m n : List (Nat × BitVec w)} (hm : Rising m) (hn : Rising n)
    (h : ∀ a, cellGet m a = cellGet n a) : m = n := by
  induction m generalizing n with
  | nil =>
    cases n with
    | nil => rfl
    | cons y n => simpa [cellGet] using h y.1
  | cons x m ih =>
    obtain ⟨k, u⟩ := x
    cases n with
    | nil => simpa [cellGet] using h k
    | cons y n =>
      obtain ⟨l, v⟩ := y
      obtain ⟨hk, hm'⟩ := List.pairwise_cons.mp hm
      obtain ⟨hl, hn'⟩ := List.pairwise_cons.mp hn
      have hkl : k = l := by
        rcases Nat.lt_trichotomy k l with hlt | heq | hlt
        · have h1 := h k
          rw [cellGet_eq_none_of_lt (m := (l, v) :: n) (a := k)] at h1
          · simp [cellGet] at h1
          · intro z hz
            rcases List.mem_cons.mp hz with rfl | hz
            · exact hlt
            · exact Nat.lt_trans hlt (hl z hz)
        · exact heq
        · have h1 := h l
          rw [cellGet_eq_none_of_lt (m := (k, u) :: m) (a := l)] at h1
          · simp [cellGet] at h1
          · intro z hz
            rcases List.mem_cons.mp hz with rfl | hz
            · exact hlt
            · exact Nat.lt_trans hlt (hk z hz)
      subst hkl
      have huv : u = v := by simpa [cellGet] using h k
      subst huv
      refine congrArg _ (ih hm' hn' fun a => ?_)
      by_cases ha : k = a
      · subst ha
        rw [cellGet_eq_none_of_lt hk, cellGet_eq_none_of_lt hl]
      · simpa [cellGet, ha] using h a

/-! ## IN -/

@[simp] theorem memory_wf_nil : Memory.wf [] := ⟨List.Pairwise.nil, by simp⟩

@[simp] theorem planeMem_wf_nil : PlaneMem.wf [] := ⟨List.Pairwise.nil, by simp⟩

/-- Reading IN after writing a byte of it (R30: a read returns the byte last written). -/
theorem readIn_writeIn (m : Memory) (a b : Nat) (v : Byte) :
    readIn (writeIn m a v) b = if b = a then v else readIn m b := by
  unfold readIn writeIn
  split
  · next h =>
    rw [cellGet_cellErase]
    split <;> simp [h]
  · rw [cellGet_cellSet]
    split <;> simp

/-- Writing a byte of IN keeps its canonical form. -/
theorem writeIn_wf {m : Memory} (h : m.wf) {a : Nat} (ha : a < 4294967296) (v : Byte) : (writeIn m a v).wf := by
  unfold writeIn
  split
  · exact ⟨rising_cellErase h.1 a, fun x hx => h.2 x (mem_cellErase.mp hx).1⟩
  · next hv =>
    refine ⟨rising_cellSet h.1 a v, fun x hx => ?_⟩
    rcases mem_cellSet hx with rfl | hx
    · exact ⟨hv, ha⟩
    · exact h.2 x hx

theorem memReadIn_eq_some {s : State} {a : Nat} (h : a < s.len.toNat) : memReadIn s a = some (readIn s.inp a) := by
  simp [memReadIn, h]

/-- A block step's read is of the byte at `base + off`, and exists when that offset is below LEN. -/
theorem currentByte_eq_some {s : State} (h : s.base.toNat + s.off.toNat < s.len.toNat) :
    currentByte s = some (readIn s.inp (s.base.toNat + s.off.toNat)) := memReadIn_eq_some h

theorem withCurrentByte_eq {s : State} (h : s.base.toNat + s.off.toNat < s.len.toNat)
    (k : Byte → Host.Outcome State Fault Refusal) :
    withCurrentByte s k = k (readIn s.inp (s.base.toNat + s.off.toNat)) := by
  simp [withCurrentByte, currentByte_eq_some h]

/-- What `withCurrentByte` can do: go on with a byte, which is the one at `base + off`. -/
theorem of_withCurrentByte {s t : State} {k : Byte → Host.Outcome State Fault Refusal}
    (h : withCurrentByte s k = .next t) :
    s.base.toNat + s.off.toNat < s.len.toNat ∧ k (readIn s.inp (s.base.toNat + s.off.toNat)) = .next t := by
  unfold withCurrentByte currentByte memReadIn at h
  split at h
  · next b hb =>
    split at hb
    · next hlt =>
      cases hb
      exact ⟨hlt, h⟩
    · cases hb
  · cases h

/-- What a block operation can do when it answers a next state: an open step, or its own effect where it is selected. -/
theorem of_blockOperation {sel : Bool} {s t : State} {own : Host.Outcome State Fault Refusal}
    (h : blockOperation sel s own = .next t) :
    s.status = .busy ∧ ((s.outcomeOpen = true ∧ t = openStep s) ∨
      (s.outcomeOpen = false ∧ sel = true ∧ own = .next t)) := by
  unfold blockOperation at h
  split at h
  · next hb =>
    refine ⟨hb, ?_⟩
    split at h
    · next ho =>
      cases h
      exact .inl ⟨ho, rfl⟩
    · next ho =>
      split at h
      · next hs => exact .inr ⟨by simpa using ho, hs, h⟩
      · cases h
  · cases h

/-- A selected block operation of a BUSY block whose outcome is not open is its own effect. -/
theorem blockOperation_eq {sel : Bool} {s : State} {own : Host.Outcome State Fault Refusal}
    (hb : s.status = .busy) (ho : s.outcomeOpen = false) (hs : sel = true) : blockOperation sel s own = own := by
  simp [blockOperation, hb, ho, hs]

/-! ## PLANE -/

/-- The keys of plane words are below the number of words. -/
theorem planeKey_lt {p r c : Nat} (hp : p < 3) (hr : r < 1944) (hc : c < 2592) :
    planeKey Geometry.bfu p r c < Geometry.bfu.planeWords := by
  simp only [planeKey, bfu_rowsKept, bfu_cols, bfu_planeWords]
  omega

/-- Different triples of the plane space have different keys. -/
theorem planeKey_injective {p r c p' r' c' : Nat} (hr : r < 1944) (hc : c < 2592)
    (hr' : r' < 1944) (hc' : c' < 2592)
    (h : planeKey Geometry.bfu p r c = planeKey Geometry.bfu p' r' c') : p = p' ∧ r = r' ∧ c = c' := by
  simp only [planeKey, bfu_rowsKept, bfu_cols] at h
  omega

/-- Reading PLANE after writing a word of it. -/
theorem readPlane_writePlane (m : PlaneMem) {p r c p' r' c' : Nat} (v : Sample)
    (hr : r < 1944) (hc : c < 2592)
    (hr' : r' < 1944) (hc' : c' < 2592) :
    readPlane Geometry.bfu (writePlane Geometry.bfu m p r c v) p' r' c'
      = if p' = p ∧ r' = r ∧ c' = c then some v else readPlane Geometry.bfu m p' r' c' := by
  unfold readPlane writePlane
  rw [cellGet_cellSet]
  by_cases h : planeKey Geometry.bfu p' r' c' = planeKey Geometry.bfu p r c
  · obtain ⟨rfl, rfl, rfl⟩ := planeKey_injective hr' hc' hr hc h
    simp
  · have : ¬ (p' = p ∧ r' = r ∧ c' = c) := by
      rintro ⟨rfl, rfl, rfl⟩
      exact h rfl
    simp [h, this]

theorem writePlane_wf {m : PlaneMem} (h : m.wf) {p r c : Nat} (hp : p < 3) (hr : r < 1944)
    (hc : c < 2592) (v : Sample) : (writePlane Geometry.bfu m p r c v).wf := by
  refine ⟨rising_cellSet h.1 _ v, fun x hx => ?_⟩
  rcases mem_cellSet hx with rfl | hx
  · exact planeKey_lt hp hr hc
  · exact h.2 x hx

theorem Plane.index_lt (p : Plane) : p.index < 3 := by cases p <;> decide

theorem Plane.index_injective {p q : Plane} (h : p.index = q.index) : p = q := by
  cases p <;> cases q <;> simp_all [Plane.index]

/-- PLANE_ALLOC at (r, c): zero in the two planes not selected there, every other word as before (R150). -/
theorem readPlane_clearUnselected (m : PlaneMem) {p r c r' c' : Nat} (hp : p < 3)
    (hr : r < 1944) (hc : c < 2592)
    (hr' : r' < 1944) (hc' : c' < 2592) :
    readPlane Geometry.bfu (clearUnselected Geometry.bfu m r c) p r' c'
      = if r' = r ∧ c' = c ∧ p ≠ (sel r c).index then some 0 else readPlane Geometry.bfu m p r' c' := by
  have hp' : p = 0 ∨ p = 1 ∨ p = 2 := by omega
  by_cases h : r' = r ∧ c' = c
  · obtain ⟨rfl, rfl⟩ := h
    cases hs : sel r' c' <;> rcases hp' with rfl | rfl | rfl <;>
      simp [clearUnselected, hs, Plane.index, readPlane_writePlane, hr, hc]
  · have h' : ¬ (r' = r ∧ c' = c ∧ p ≠ (sel r c).index) := fun hh => h ⟨hh.1, hh.2.1⟩
    cases hs : sel r c <;> simp [clearUnselected, hs, readPlane_writePlane, hr, hc, hr', hc', h] <;>
      exact fun h1 h2 => absurd ⟨h1, h2⟩ h

/-- PLANE_WRITE at (r, c): the sample in the selected plane and zero in the other two, every other word as before
(R153). -/
theorem readPlane_placeSample (m : PlaneMem) {p r c r' c' : Nat} (v : Sample) (hp : p < 3)
    (hr : r < 1944) (hc : c < 2592)
    (hr' : r' < 1944) (hc' : c' < 2592) :
    readPlane Geometry.bfu (placeSample Geometry.bfu m r c v) p r' c'
      = if r' = r ∧ c' = c then some (if p = (sel r' c').index then v else 0)
        else readPlane Geometry.bfu m p r' c' := by
  unfold placeSample
  rw [readPlane_writePlane _ _ hr hc hr' hc', readPlane_clearUnselected _ hp hr hc hr' hc']
  by_cases h : r' = r ∧ c' = c
  · obtain ⟨rfl, rfl⟩ := h
    by_cases hs : p = (sel r' c').index <;> simp [hs]
  · have h2 : ¬ (p = (sel r c).index ∧ r' = r ∧ c' = c) := fun hh => h hh.2
    have h3 : ¬ (r' = r ∧ c' = c ∧ p ≠ (sel r c).index) := fun hh => h ⟨hh.1, hh.2.1⟩
    rw [if_neg h2, if_neg h3, if_neg h]

theorem clearUnselected_wf {m : PlaneMem} (h : m.wf) {r c : Nat} (hr : r < 1944)
    (hc : c < 2592) : (clearUnselected Geometry.bfu m r c).wf := by
  cases hs : sel r c <;> simp only [clearUnselected, hs, List.foldl] <;> simp only [reduceCtorEq, if_true, if_false] <;>
    exact writePlane_wf (writePlane_wf h (Plane.index_lt _) hr hc 0) (Plane.index_lt _) hr hc 0

theorem placeSample_wf {m : PlaneMem} (h : m.wf) {r c : Nat} (hr : r < 1944)
    (hc : c < 2592) (v : Sample) : (placeSample Geometry.bfu m r c v).wf :=
  writePlane_wf (clearUnselected_wf h hr hc) (Plane.index_lt _) hr hc v

/-- The four columns of a group are inside the planes. -/
theorem groupColumn_lt {g k : Nat} (hg : g < 648) (hk : k < 4) :
    4 * g + k < 2592 := by
  omega

/-- GROUP_EMIT's words: the four samples of the group at its four columns, zero beside each, and every other word as
before (R131). -/
theorem readPlane_emitLanes (m : PlaneMem) (h : Held) (pk : Byte) {row g p r c : Nat} (hp : p < 3)
    (hrow : row < 1944) (hg : g < 648)
    (hr : r < 1944) (hc : c < 2592) :
    readPlane Geometry.bfu (emitLanes Geometry.bfu row g h pk m) p r c
      = if r = row ∧ c / 4 = g then
          some (if p = (sel r c).index then unpackPair (widenByte (h.get (c % 4))) (widenByte pk) (c % 4) else 0)
        else readPlane Geometry.bfu m p r c := by
  have h0 := groupColumn_lt hg (k := 0) (by omega)
  have h1 := groupColumn_lt hg (k := 1) (by omega)
  have h2 := groupColumn_lt hg (k := 2) (by omega)
  have h3 := groupColumn_lt hg (k := 3) (by omega)
  simp only [emitLanes, List.foldl, sampleColumn, Nat.reduceLT, if_true, if_false]
  rw [readPlane_placeSample _ _ hp hrow h3 hr hc, readPlane_placeSample _ _ hp hrow h2 hr hc,
    readPlane_placeSample _ _ hp hrow h1 hr hc, readPlane_placeSample _ _ hp hrow h0 hr hc]
  by_cases hh : r = row ∧ c / 4 = g
  · obtain ⟨rfl, rfl⟩ := hh
    have hdiv := Nat.div_add_mod c 4
    have hk : c % 4 = 0 ∨ c % 4 = 1 ∨ c % 4 = 2 ∨ c % 4 = 3 := by omega
    rw [if_pos (show r = r ∧ c / 4 = c / 4 from ⟨rfl, rfl⟩)]
    rcases hk with hk | hk | hk | hk <;> rw [hk] at hdiv ⊢
    · rw [if_neg (by omega), if_neg (by omega), if_neg (by omega), if_pos ⟨rfl, hdiv.symm⟩]
    · rw [if_neg (by omega), if_neg (by omega), if_pos ⟨rfl, hdiv.symm⟩]
    · rw [if_neg (by omega), if_pos ⟨rfl, hdiv.symm⟩]
    · rw [if_pos ⟨rfl, hdiv.symm⟩]
  · have n3 : ¬ (r = row ∧ c = 4 * g + 3) := fun ⟨a, b⟩ => hh ⟨a, by omega⟩
    have n2 : ¬ (r = row ∧ c = 4 * g + 2) := fun ⟨a, b⟩ => hh ⟨a, by omega⟩
    have n1 : ¬ (r = row ∧ c = 4 * g + 1) := fun ⟨a, b⟩ => hh ⟨a, by omega⟩
    have n0 : ¬ (r = row ∧ c = 4 * g + 0) := fun ⟨a, b⟩ => hh ⟨a, by omega⟩
    rw [if_neg n3, if_neg n2, if_neg n1, if_neg n0, if_neg hh]

theorem emitLanes_wf {m : PlaneMem} (h : m.wf) {row g : Nat} (hrow : row < 1944)
    (hg : g < 648) (hd : Held) (pk : Byte) :
    (emitLanes Geometry.bfu row g hd pk m).wf := by
  simp only [emitLanes, List.foldl, sampleColumn, Nat.reduceLT, if_true, if_false]
  exact placeSample_wf (placeSample_wf (placeSample_wf (placeSample_wf h hrow (groupColumn_lt hg (by omega)) _)
    hrow (groupColumn_lt hg (by omega)) _) hrow (groupColumn_lt hg (by omega)) _) hrow
    (groupColumn_lt hg (by omega)) _

/-! ## D -/

theorem Held.get_set (h : Held) {k j : Nat} (b : Byte) (hk : k < 4) (hj : j < 4) :
    (h.set k b).get j = if j = k then b else h.get j := by
  have hk' : k = 0 ∨ k = 1 ∨ k = 2 ∨ k = 3 := by omega
  have hj' : j = 0 ∨ j = 1 ∨ j = 2 ∨ j = 3 := by omega
  rcases hk' with rfl | rfl | rfl | rfl <;> rcases hj' with rfl | rfl | rfl | rfl <;> rfl

end Sys2Proof.Machine
end

