-- ==== Sys2Proof/Laws/Steps.lean ====
section
/-! SUPPORT. What a step can do, said once: one inversion lemma for the block's step, for waiting on it, and for the
machine's step; and what running does to `off`. -/

namespace Sys2Proof.Machine

/-- What a step of the block can do when its outcome is not open: FINISH at the end of the frame; else the byte at
`base + off` exists and MARKER_CHECK, HEADER_SKIP or ROW_FRAME works on it. -/
theorem blockStep_cases {G : Geometry} {s t : State} (ho : s.outcomeOpen = false) (h : blockStep G s = .next t) :
    (s.off.toNat = G.frameBytes ∧ t = finish s) ∨
    (s.off.toNat ≠ G.frameBytes ∧ s.base.toNat + s.off.toNat < s.len.toNat ∧
      ((s.off.toNat < 4 ∧ t = markerCheck (readIn s.inp (s.base.toNat + s.off.toNat)) s) ∨
       (4 ≤ s.off.toNat ∧ s.off.toNat < G.headerBytes ∧ t = advance s) ∨
       (4 ≤ s.off.toNat ∧ G.headerBytes ≤ s.off.toNat ∧
         t = rowFrame G (readIn s.inp (s.base.toNat + s.off.toNat)) s))) := by
  unfold blockStep at h
  rw [if_neg (by simp [ho])] at h
  split at h
  · next hf =>
    cases h
    exact .inl ⟨hf, rfl⟩
  · next hf =>
    obtain ⟨hb, h⟩ := of_withCurrentByte h
    refine .inr ⟨hf, hb, ?_⟩
    split at h
    · next h4 =>
      cases h
      exact .inl ⟨h4, rfl⟩
    · next h4 =>
      split at h
      · next hh =>
        cases h
        exact .inr (.inl ⟨by omega, hh, rfl⟩)
      · next hh =>
        cases h
        exact .inr (.inr ⟨by omega, by omega, rfl⟩)

/-- On the hardware FRAMING_CHECK passes (R114), so ROW_FRAME always advances past its byte. -/
theorem framingOk_bfu : framingOk Geometry.bfu = true := by decide

theorem rowFrame_bfu (b : Byte) (s : State) : rowFrame Geometry.bfu b s = advance (rowBody Geometry.bfu b s) := by
  simp [rowFrame, framingOk_bfu]

/-- What ROW_FRAME's operation can be, with the row test first (R113). -/
theorem rowBody_cases (G : Geometry) (b : Byte) (s : State) :
    (G.rowsKept ≤ rowAt G s.off.toNat ∧ rowBody G b s = s) ∨
    (rowAt G s.off.toNat < G.rowsKept ∧ G.rowBytesKept ≤ bcolAt G s.off.toNat ∧ rowBody G b s = s) ∨
    (rowAt G s.off.toNat < G.rowsKept ∧ bcolAt G s.off.toNat < G.rowBytesKept ∧ bcolAt G s.off.toNat % 5 < 4 ∧
      rowBody G b s = latchByte G b s) ∨
    (rowAt G s.off.toNat < G.rowsKept ∧ bcolAt G s.off.toNat < G.rowBytesKept ∧ bcolAt G s.off.toNat % 5 = 4 ∧
      rowBody G b s = emitGroup G b s) := by
  unfold rowBody
  split
  · next h => exact .inl ⟨h, rfl⟩
  · next h1 =>
    split
    · next h => exact .inr (.inl ⟨by omega, h, rfl⟩)
    · next h2 =>
      split
      · next h => exact .inr (.inr (.inl ⟨by omega, by omega, h, rfl⟩))
      · next h3 => exact .inr (.inr (.inr ⟨by omega, by omega, by omega, rfl⟩))

/-- What every step of the block keeps, waiting for it keeps: the induction of `awaitEnd`, once. -/
theorem awaitEnd_induction {G : Geometry} {P : State → Prop}
    (hstep : ∀ s t, P s → s.status = .busy → blockStep G s = .next t → P t) :
    ∀ (n : Nat) (s t : State), P s → awaitEnd G n s = .next t → P t
  | 0, s, t, hs, h => by
    cases h
    exact hs
  | n + 1, s, t, hs, h => by
    unfold awaitEnd at h
    split at h
    · next hb =>
      split at h
      · next u hu => exact awaitEnd_induction hstep n u t (hstep s u hs hb hu) h
      · cases h
      · cases h
    · cases h
      exact hs

/-- What a step of the machine can do: the block's move when nothing is presented, else the presented operation. -/
theorem step_cases {s t : State} (h : step s = .next t) :
    (s.port = [] ∧ exec .step s = .next t) ∨
    ∃ i rest, decode s.port = .op i rest ∧ i.presentable = true ∧ exec i { s with port := rest } = .next t := by
  unfold step at h
  split at h
  · next i u hn =>
    unfold nextOperation at hn
    split at hn
    · next hp =>
      cases hn
      exact .inl ⟨hp, h⟩
    · next b bs hp =>
      rw [← hp] at hn
      split at hn
      · cases hn
      · next j rest hd =>
        split at hn
        · next hi =>
          cases hn
          exact .inr ⟨_, _, hd, hi, h⟩
        · cases hn
  · cases h

/-- With nothing presented, the machine's step is the operation STEP. -/
theorem step_of_port_nil {s : State} (h : s.port = []) : step s = exec .step s := by
  unfold step nextOperation
  rw [h]

/-- Advancing does not wrap inside the frame (R23). -/
theorem advance_off_toNat {s : State} (h : s.off.toNat ≤ 6404096) : (advance s).off.toNat = s.off.toNat + 1 := by
  simp only [advance_off, BitVec.toNat_add]
  have : (1 : OffWord).toNat = 1 := rfl
  rw [this]
  omega

/-- `base` after START: LEN - FRAME_BYTES, which is not negative (R110). -/
theorem latchBase_base_toNat {s : State} (h : 6404096 ≤ s.len.toNat) :
    (latchBase Geometry.bfu s).base.toNat = s.len.toNat - 6404096 := by
  have hlt := s.len.isLt
  simp only [latchBase_base, Geometry.bfu]
  rw [BitVec.toNat_sub]
  have : (BitVec.ofNat 32 6404096).toNat = 6404096 := rfl
  rw [this]
  omega

end Sys2Proof.Machine
end

