-- ==== Sys2Proof/Laws/Transaction.lean ====
section
/-! SUPPORT. What the whole decode at the transaction level can do (R171), what its planes read as, and that a sample's
two forms agree (R133, R135). -/

namespace Sys2Proof.Machine

/-! ## Samples -/

theorem widenByte_toNat (b : Byte) : (widenByte b).toNat = 4 * b.toNat := by
  have hb := b.isLt
  simp only [widenByte, BitVec.toNat_shiftLeft, BitVec.toNat_setWidth, Nat.shiftLeft_eq]
  omega

theorem sampleValue_toNat (b p : Byte) (k : Nat) : (sampleValue b p k).toNat = 4 * b.toNat + p.toNat / 2 ^ (6 - 2 * k) % 4 := by
  have hb := b.isLt
  simp only [sampleValue, lowPair, BitVec.toNat_ofNat]
  omega

/-- UNPACK_LOW's form of the source is the closed form on the raw bytes (R133). -/
theorem unpackPair_widenByte (b p : Byte) {k : Nat} (hk : k < 4) :
    unpackPair (widenByte b) (widenByte p) k = sampleValue b p k := by
  have h3 : ∀ y : Nat, y &&& 3 = y % 4 := fun y => Nat.and_two_pow_sub_one_eq_mod y 2
  have hor : ∀ x y : Nat, y < 4 → (4 * x) ||| y = 4 * x + y := by
    intro x y hy
    have := Nat.two_pow_add_eq_or_of_lt (i := 2) (b := y) (by omega) x
    simpa using this.symm
  apply BitVec.eq_of_toNat_eq
  rw [sampleValue_toNat]
  simp only [unpackPair, BitVec.toNat_or, BitVec.toNat_and, BitVec.toNat_ushiftRight, widenByte_toNat]
  rw [show (3 : Sample).toNat = 3 from rfl, h3, hor _ _ (by omega)]
  have hp := p.isLt
  have hk4 : k = 0 ∨ k = 1 ∨ k = 2 ∨ k = 3 := by omega
  rcases hk4 with rfl | rfl | rfl | rfl <;> simp [Nat.shiftRight_eq_div_pow] <;> omega

/-! ## The result's planes -/

theorem planeKey_fields {p r c : Nat} (hr : r < 1944) (hc : c < 2592) :
    planeKey Geometry.bfu p r c / (1944 * 2592) = p ∧ planeKey Geometry.bfu p r c / 2592 % 1944 = r ∧
      planeKey Geometry.bfu p r c % 2592 = c := by
  simp only [planeKey, bfu_rowsKept, bfu_cols]
  omega

theorem rising_range (n : Nat) (f : Nat → Sample) : Rising ((List.range n).map fun k => (k, f k)) := by
  simp only [Rising, List.pairwise_map]
  exact List.pairwise_lt_range

theorem outputPlanes_wf (m : Memory) (base : Nat) : (outputPlanes Geometry.bfu m base).wf := by
  refine ⟨rising_range _ _, ?_⟩
  simp [outputPlanes]

theorem readPlane_outputPlanes (m : Memory) (base : Nat) {p r c : Nat} (hp : p < 3) (hr : r < 1944) (hc : c < 2592) :
    readPlane Geometry.bfu (outputPlanes Geometry.bfu m base) p r c = some (outputWord Geometry.bfu m base p r c) := by
  obtain ⟨h1, h2, h3⟩ := planeKey_fields (p := p) hr hc
  have hlt := planeKey_lt hp hr hc
  unfold readPlane outputPlanes
  rw [cellGet_of_mem (rising_range _ _) (List.mem_map.mpr ⟨_, List.mem_range.mpr hlt, rfl⟩)]
  simp only [bfu_rowsKept, bfu_cols, h1, h2, h3]

/-- Two PLANEs in canonical form with the same words are the same data. -/
theorem planeMem_ext {m n : PlaneMem} (hm : m.wf) (hn : n.wf)
    (h : ∀ p r c, p < 3 → r < 1944 → c < 2592 → readPlane Geometry.bfu m p r c = readPlane Geometry.bfu n p r c) :
    m = n := by
  refine eq_of_cellGet_eq hm.1 hn.1 fun a => ?_
  by_cases ha : a < 15116544
  · have e : planeKey Geometry.bfu (a / (1944 * 2592)) (a / 2592 % 1944) (a % 2592) = a := by
      simp only [planeKey, bfu_rowsKept, bfu_cols]
      omega
    have := h (a / (1944 * 2592)) (a / 2592 % 1944) (a % 2592) (by omega) (by omega) (by omega)
    unfold readPlane at this
    rwa [e] at this
  · have none_of : ∀ k : PlaneMem, k.wf → cellGet k a = none := fun k hk =>
      cellGet_eq_none_of_forall_ne fun x hx e => by
        have := hk.2 x hx
        rw [bfu_planeWords] at this
        omega
    rw [none_of m hm, none_of n hn]

/-! ## The marker -/

theorem firstMismatch_eq_some {m : Memory} {base i : Nat} (h : firstMismatch m base = some i) :
    i < 4 ∧ readIn m (base + i) ≠ markerByte i ∧ ∀ j, j < i → readIn m (base + j) = markerByte j := by
  unfold firstMismatch at h
  rw [List.find?_eq_some_iff_getElem] at h
  obtain ⟨hne, j, hj, hji, hbefore⟩ := h
  have hlen : j < 4 := hj
  have hget : ∀ x (hx : x < 4), ([0, 1, 2, 3] : List Nat)[x] = x := by decide
  rw [hget j hlen] at hji
  subst hji
  refine ⟨hlen, by simpa using hne, fun x hx => ?_⟩
  have := hbefore x hx
  rw [hget x (by omega)] at this
  simpa using this

theorem firstMismatch_eq_none {m : Memory} {base : Nat} :
    firstMismatch m base = none ↔ ∀ j, j < 4 → readIn m (base + j) = markerByte j := by
  unfold firstMismatch
  rw [List.find?_eq_none]
  refine ⟨fun h j hj => ?_, fun h x hx => ?_⟩
  · have := h j (by obtain rfl | rfl | rfl | rfl : j = 0 ∨ j = 1 ∨ j = 2 ∨ j = 3 := by omega
                    all_goals simp)
    simpa using this
  · have : x < 4 := by
      simp only [List.mem_cons, List.not_mem_nil, or_false] at hx
      omega
    simp [h x this]

/-! ## The three outcomes of a decode -/

theorem transact_short {s : State} (h : s.len.toNat < 6404096) :
    transact Geometry.bfu s = raise .shortBuffer { s with outcomeOpen := false } := by
  have : isShort Geometry.bfu s = true := by simpa [isShort] using h
  simp only [transact, this, if_true]

theorem latchBase_bfu (s : State) : latchBase Geometry.bfu s = { s with base := s.len - 6404096#32 } := rfl

theorem transact_badMarker {s : State} (h : 6404096 ≤ s.len.toNat) {i : Nat}
    (hi : firstMismatch s.inp (s.len.toNat - 6404096) = some i) :
    transact Geometry.bfu s
      = { s with status := .error, cause := .badMarker, base := s.len - 6404096#32, off := BitVec.ofNat 23 i,
                 outcomeOpen := false } := by
  have hs : ¬ isShort Geometry.bfu s = true := by simpa [isShort] using h
  unfold transact
  rw [if_neg hs]
  simp only [enterBusy_base, latchBase_base_toNat h, hi]
  simp only [latchBase_bfu, enterBusy, raise]

theorem transact_done {s : State} (h : 6404096 ≤ s.len.toNat)
    (hi : firstMismatch s.inp (s.len.toNat - 6404096) = none) :
    transact Geometry.bfu s
      = { s with status := .done, cause := .none, base := s.len - 6404096#32, off := 6404096#23,
                 held := lastHeld Geometry.bfu s.inp (s.len.toNat - 6404096),
                 plane := outputPlanes Geometry.bfu s.inp (s.len.toNat - 6404096),
                 outcomeOpen := false, planeOpen := false } := by
  have hs : ¬ isShort Geometry.bfu s = true := by simpa [isShort] using h
  unfold transact
  rw [if_neg hs]
  simp only [enterBusy_base, latchBase_base_toNat h, hi, framingOk_bfu, Bool.true_eq_false, if_false]
  simp only [latchBase_bfu, enterBusy, finish, bfu_frameBytes]

end Sys2Proof.Machine
end

