-- ==== Sys2Proof/Laws/Exec.lean ====
section
/-! SUPPORT. What each operation can do, said once: one inversion lemma for every meaning that does not simply answer a
record update. A statement over all operations is a case analysis over these. -/

namespace Sys2Proof.Machine

variable {s t : State}

/-- MARKER_CHECK: the right byte advances, another raises (R111). -/
theorem markerCheck_cases (b : Byte) (s : State) :
    (b = markerByte s.off.toNat ∧ markerCheck b s = advance s) ∨
    (b ≠ markerByte s.off.toNat ∧ markerCheck b s = raise .badMarker s) := by
  unfold markerCheck
  split
  · next h => exact .inl ⟨h, rfl⟩
  · next h => exact .inr ⟨h, rfl⟩

/-- ROW_FRAME on the hardware: `off` advances, and at most D (a latched lane) or PLANE (a group's words) changes. D's and
PLANE's new values are named by variables, so that a frame claim does not evaluate a lane number. -/
theorem rowFrame_cases (b : Byte) (s : State) :
    ∃ d m, rowFrame Geometry.bfu b s = advance { s with held := d, plane := m } ∧
      ((d = s.held ∧ m = s.plane) ∨
       (rowOperation Geometry.bfu s.off.toNat = .dataLatch ∧ m = s.plane ∧
         d = s.held.set (laneAt Geometry.bfu s.off.toNat) b) ∨
       (rowOperation Geometry.bfu s.off.toNat = .groupEmit ∧ d = s.held ∧
         m = emitLanes Geometry.bfu (rowAt Geometry.bfu s.off.toNat) (groupAt Geometry.bfu s.off.toNat) s.held b
           s.plane)) := by
  rw [rowFrame_bfu]
  unfold rowOperation
  rcases rowBody_cases Geometry.bfu b s with ⟨_, e⟩ | ⟨_, _, e⟩ | ⟨h1, h2, h3, e⟩ | ⟨h1, h2, h3, e⟩
  · exact ⟨s.held, s.plane, by rw [e], .inl ⟨rfl, rfl⟩⟩
  · exact ⟨s.held, s.plane, by rw [e], .inl ⟨rfl, rfl⟩⟩
  · refine ⟨_, s.plane, by rw [e, latchByte], .inr (.inl ⟨?_, rfl, rfl⟩)⟩
    rw [if_neg (by omega), if_neg (by omega), if_pos h3]
  · refine ⟨s.held, _, by rw [e, emitGroup, setPlane], .inr (.inr ⟨?_, rfl, rfl⟩)⟩
    rw [if_neg (by omega), if_neg (by omega), if_neg (by omega)]

theorem execStart_cases (h : execStart s = .next t) :
    (s.status = .busy ∧ t = s) ∨
    (s.status ≠ .busy ∧ s.len.toNat < 6404096 ∧
      t = { s with status := .error, cause := .shortBuffer, outcomeOpen := false }) ∨
    (s.status ≠ .busy ∧ 6404096 ≤ s.len.toNat ∧
      t = { s with status := .busy, cause := .none, base := s.len - 6404096#32, off := 0, outcomeOpen := false }) := by
  unfold execStart start at h
  split at h
  · next hb =>
    cases h
    exact .inl ⟨hb, rfl⟩
  · next hb =>
    split at h
    · next hs =>
      cases h
      exact .inr (.inl ⟨hb, by simpa [isShort] using hs, rfl⟩)
    · next hs =>
      cases h
      exact .inr (.inr ⟨hb, by simpa [isShort] using hs, rfl⟩)

theorem execFrameExtract_cases (h : execFrameExtract s = .next t) :
    s.status ≠ .busy ∧
    ((s.len.toNat < 6404096 ∧ t = { s with status := .error, cause := .shortBuffer }) ∨
     (6404096 ≤ s.len.toNat ∧ t = { s with base := s.len - 6404096#32 })) := by
  unfold execFrameExtract frameExtract at h
  split at h
  · cases h
  · next hb =>
    refine ⟨hb, ?_⟩
    split at h
    · next hs =>
      cases h
      exact .inl ⟨by simpa [isShort] using hs, rfl⟩
    · next hs =>
      cases h
      exact .inr ⟨by simpa [isShort] using hs, rfl⟩

theorem execMarkerCheck_cases (h : execMarkerCheck s = .next t) :
    s.status = .busy ∧ ((s.outcomeOpen = true ∧ t = openStep s) ∨
      (s.outcomeOpen = false ∧ s.off.toNat < 4 ∧ (t = advance s ∨ t = raise .badMarker s))) := by
  obtain ⟨hb, ⟨ho, e⟩ | ⟨ho, hs, e⟩⟩ := of_blockOperation h
  · exact ⟨hb, .inl ⟨ho, e⟩⟩
  · obtain ⟨_, e⟩ := of_withCurrentByte e
    cases e
    refine ⟨hb, .inr ⟨ho, by simpa using hs, ?_⟩⟩
    rcases markerCheck_cases (readIn s.inp (s.base.toNat + s.off.toNat)) s with ⟨_, e⟩ | ⟨_, e⟩
    · exact .inl e
    · exact .inr e

theorem execHeaderSkip_cases (h : execHeaderSkip s = .next t) :
    s.status = .busy ∧ ((s.outcomeOpen = true ∧ t = openStep s) ∨ (s.outcomeOpen = false ∧ t = advance s)) := by
  obtain ⟨hb, ⟨ho, e⟩ | ⟨ho, _, e⟩⟩ := of_blockOperation h
  · exact ⟨hb, .inl ⟨ho, e⟩⟩
  · cases e
    exact ⟨hb, .inr ⟨ho, rfl⟩⟩

theorem execRowFrame_cases (h : execRowFrame s = .next t) :
    s.status = .busy ∧ ((s.outcomeOpen = true ∧ t = openStep s) ∨
      (s.outcomeOpen = false ∧ ∃ b, t = rowFrame Geometry.bfu b s)) := by
  obtain ⟨hb, ⟨ho, e⟩ | ⟨ho, _, e⟩⟩ := of_blockOperation h
  · exact ⟨hb, .inl ⟨ho, e⟩⟩
  · obtain ⟨_, e⟩ := of_withCurrentByte e
    cases e
    exact ⟨hb, .inr ⟨ho, _, rfl⟩⟩

theorem execFramingCheck_cases (h : execFramingCheck s = .next t) :
    s.status = .busy ∧ ((s.outcomeOpen = true ∧ t = openStep s) ∨ (s.outcomeOpen = false ∧ t = s)) := by
  obtain ⟨hb, ⟨ho, e⟩ | ⟨ho, _, e⟩⟩ := of_blockOperation h
  · exact ⟨hb, .inl ⟨ho, e⟩⟩
  · rw [framingOk_bfu] at e
    cases e
    exact ⟨hb, .inr ⟨ho, rfl⟩⟩

theorem execRowDrop_cases (h : execRowDrop s = .next t) :
    s.status = .busy ∧ ((s.outcomeOpen = true ∧ t = openStep s) ∨ (s.outcomeOpen = false ∧ t = s)) := by
  obtain ⟨hb, ⟨ho, e⟩ | ⟨ho, _, e⟩⟩ := of_blockOperation h
  · exact ⟨hb, .inl ⟨ho, e⟩⟩
  · cases e
    exact ⟨hb, .inr ⟨ho, rfl⟩⟩

theorem execRowTrim_cases (h : execRowTrim s = .next t) :
    s.status = .busy ∧ ((s.outcomeOpen = true ∧ t = openStep s) ∨ (s.outcomeOpen = false ∧ t = s)) := by
  obtain ⟨hb, ⟨ho, e⟩ | ⟨ho, _, e⟩⟩ := of_blockOperation h
  · exact ⟨hb, .inl ⟨ho, e⟩⟩
  · cases e
    exact ⟨hb, .inr ⟨ho, rfl⟩⟩

theorem execDataLatch_cases (h : execDataLatch s = .next t) :
    s.status = .busy ∧ ((s.outcomeOpen = true ∧ t = openStep s) ∨
      (s.outcomeOpen = false ∧ ∃ d, t = { s with held := d })) := by
  obtain ⟨hb, ⟨ho, e⟩ | ⟨ho, _, e⟩⟩ := of_blockOperation h
  · exact ⟨hb, .inl ⟨ho, e⟩⟩
  · obtain ⟨_, e⟩ := of_withCurrentByte e
    simp only [latchByte, Host.Outcome.next.injEq] at e
    exact ⟨hb, .inr ⟨ho, _, e.symm⟩⟩

theorem execGroupEmit_cases (h : execGroupEmit s = .next t) :
    s.status = .busy ∧ ((s.outcomeOpen = true ∧ t = openStep s) ∨
      (s.outcomeOpen = false ∧ ∃ m, t = { s with plane := m })) := by
  obtain ⟨hb, ⟨ho, e⟩ | ⟨ho, _, e⟩⟩ := of_blockOperation h
  · exact ⟨hb, .inl ⟨ho, e⟩⟩
  · obtain ⟨_, e⟩ := of_withCurrentByte e
    simp only [emitGroup, setPlane, Host.Outcome.next.injEq] at e
    exact ⟨hb, .inr ⟨ho, _, e.symm⟩⟩

theorem execUnpackLow_cases {wk w4 : Sample} {k : Nat} (h : execUnpackLow wk w4 k s = .next t) :
    t = answer (.sample (unpackPair wk w4 k)) s := by
  unfold execUnpackLow at h
  split at h <;> cases h
  rfl

theorem execPackRemove_cases {g k : Nat} (h : execPackRemove g k s = .next t) :
    t = answer (.column (sampleColumn g k)) s := by
  unfold execPackRemove at h
  split at h <;> cases h
  rfl

theorem execPlaneAlloc_cases {r c : Nat} (h : execPlaneAlloc r c s = .next t) :
    s.status = .busy ∧ ((s.outcomeOpen = true ∧ t = openStep s) ∨
      (s.outcomeOpen = false ∧ ∃ m, t = { s with plane := m })) := by
  obtain ⟨hb, ⟨ho, e⟩ | ⟨ho, _, e⟩⟩ := of_blockOperation h
  · exact ⟨hb, .inl ⟨ho, e⟩⟩
  · split at e
    · cases e
      exact ⟨hb, .inr ⟨ho, _, rfl⟩⟩
    · cases e

theorem execPlaneWrite_cases {r c : Nat} {v : Sample} (h : execPlaneWrite r c v s = .next t) :
    s.status = .busy ∧ ((s.outcomeOpen = true ∧ t = openStep s) ∨
      (s.outcomeOpen = false ∧ ∃ m, t = { s with plane := m })) := by
  obtain ⟨hb, ⟨ho, e⟩ | ⟨ho, _, e⟩⟩ := of_blockOperation h
  · exact ⟨hb, .inl ⟨ho, e⟩⟩
  · split at e
    · cases e
      exact ⟨hb, .inr ⟨ho, _, rfl⟩⟩
    · cases e

theorem execFinish_cases (h : execFinish s = .next t) :
    s.status = .busy ∧ ((s.outcomeOpen = true ∧ t = openStep s) ∨
      (s.outcomeOpen = false ∧ s.off.toNat = 6404096 ∧ t = finish s)) := by
  obtain ⟨hb, ⟨ho, e⟩ | ⟨ho, hs, e⟩⟩ := of_blockOperation h
  · exact ⟨hb, .inl ⟨ho, e⟩⟩
  · cases e
    exact ⟨hb, .inr ⟨ho, by simpa using hs, rfl⟩⟩

/-- A step of the hardware's block, open or not. -/
theorem blockStep_bfu_cases (h : blockStep Geometry.bfu s = .next t) :
    (s.outcomeOpen = true ∧ t = openStep s) ∨
    (s.outcomeOpen = false ∧
      ((s.off.toNat = 6404096 ∧ t = finish s) ∨
       (s.off.toNat < 4 ∧ t = raise .badMarker s) ∨
       t = advance s ∨ ∃ b, t = rowFrame Geometry.bfu b s)) := by
  by_cases ho : s.outcomeOpen = true
  · rw [blockStep, if_pos ho] at h
    cases h
    exact .inl ⟨ho, rfl⟩
  · have ho : s.outcomeOpen = false := by simpa using ho
    refine .inr ⟨ho, ?_⟩
    rcases blockStep_cases ho h with ⟨e, rfl⟩ | ⟨_, _, ⟨h4, rfl⟩ | ⟨_, _, rfl⟩ | ⟨_, _, rfl⟩⟩
    · exact .inl ⟨by simpa using e, rfl⟩
    · rcases markerCheck_cases (readIn s.inp (s.base.toNat + s.off.toNat)) s with ⟨_, e⟩ | ⟨_, e⟩
      · exact .inr (.inr (.inl e))
      · exact .inr (.inl ⟨h4, e⟩)
    · exact .inr (.inr (.inl rfl))
    · exact .inr (.inr (.inr ⟨_, rfl⟩))

theorem markerCheck_port (b : Byte) (s : State) (p : List Byte) :
    markerCheck b { s with port := p } = { markerCheck b s with port := p } := by
  simp only [markerCheck]
  split_ifs
  · rfl
  · rfl

theorem rowFrame_port (b : Byte) (s : State) (p : List Byte) :
    rowFrame Geometry.bfu b { s with port := p } = { rowFrame Geometry.bfu b s with port := p } := by
  rw [rowFrame_bfu, rowFrame_bfu]
  simp only [rowBody, latchByte, emitGroup, setPlane, laneAt, groupAt]
  generalize rowAt Geometry.bfu s.off.toNat = row
  generalize bcolAt Geometry.bfu s.off.toNat = bcol
  split_ifs
  · rfl
  · rfl
  · rfl
  · rfl

/-- The block does not look at the port: its step is the same whatever the port holds, and leaves the port. -/
theorem blockStep_port (h : blockStep Geometry.bfu s = .next t) (p : List Byte) :
    blockStep Geometry.bfu { s with port := p } = .next { t with port := p } := by
  by_cases ho : s.outcomeOpen = true
  · rw [blockStep, if_pos ho] at h
    cases h
    rw [blockStep, if_pos (show ({ s with port := p } : State).outcomeOpen = true from ho)]
    rfl
  · have ho : s.outcomeOpen = false := by simpa using ho
    unfold blockStep
    rw [if_neg (by simp [ho])]
    rcases blockStep_cases ho h with ⟨e, rfl⟩ | ⟨e, hb, hcase⟩
    · rw [if_pos (show ({ s with port := p } : State).off.toNat = _ from e)]
      rfl
    · have hbyte := withCurrentByte_eq (s := { s with port := p }) hb
      rw [if_neg (show ¬ ({ s with port := p } : State).off.toNat = _ from e), hbyte]
      rcases hcase with ⟨h4, rfl⟩ | ⟨h4, hh, rfl⟩ | ⟨h4, hh, rfl⟩
      · rw [if_pos (show ({ s with port := p } : State).off.toNat < 4 from h4)]
        exact congrArg _ (markerCheck_port _ s p)
      · rw [if_neg (show ¬ ({ s with port := p } : State).off.toNat < 4 by simp only; omega),
          if_pos (show ({ s with port := p } : State).off.toNat < _ from hh)]
        rfl
      · rw [if_neg (show ¬ ({ s with port := p } : State).off.toNat < 4 by simp only; omega),
          if_neg (show ¬ ({ s with port := p } : State).off.toNat < _ by simp only; omega)]
        exact congrArg _ (rowFrame_port _ s p)

theorem blockStep_keeps_port (h : blockStep Geometry.bfu s = .next t) : t.port = s.port := by
  rcases blockStep_bfu_cases h with ⟨_, rfl⟩ | ⟨_, ⟨_, rfl⟩ | ⟨_, rfl⟩ | rfl | ⟨b, rfl⟩⟩
  · rfl
  · rfl
  · rfl
  · rfl
  · obtain ⟨d, m, e, -⟩ := rowFrame_cases b s
    rw [e]
    rfl

/-- Before the first packing byte a step of the block leaves PLANE (R195). -/
theorem blockStep_keeps_plane (h : blockStep Geometry.bfu s = .next t) (ho : s.off.toNat < 32772) : t.plane = s.plane := by
  rcases blockStep_bfu_cases h with ⟨_, rfl⟩ | ⟨_, ⟨_, rfl⟩ | ⟨_, rfl⟩ | rfl | ⟨b, rfl⟩⟩
  · rfl
  · rfl
  · rfl
  · rfl
  · obtain ⟨d, m, e, ⟨_, rfl⟩ | ⟨_, rfl, _⟩ | ⟨hg, _, _⟩⟩ := rowFrame_cases b s
    · rw [e, advance_plane]
    · rw [e, advance_plane]
    · have hsmall : bcolAt Geometry.bfu s.off.toNat < 4 := by
        simp only [bcolAt, bfu_headerBytes, bfu_rowStride]
        omega
      rw [rowOperation] at hg
      split at hg
      · cases hg
      · split at hg
        · cases hg
        · rw [if_pos (by omega)] at hg
          cases hg

theorem execStep_cases (h : execStep s = .next t) :
    (s.status ≠ .busy ∧ t = s) ∨ (s.status = .busy ∧ blockStep Geometry.bfu s = .next t) := by
  unfold execStep at h
  split at h
  · next hb => exact .inr ⟨hb, h⟩
  · next hb =>
    cases h
    exact .inl ⟨hb, rfl⟩

theorem execDecode_cases (h : execDecode s = .next t) :
    (s.status ≠ .busy ∧ t = transact Geometry.bfu s) ∨
    (s.status = .busy ∧ awaitEnd Geometry.bfu waitBound s = .next t) := by
  unfold execDecode at h
  split at h
  · next hb => exact .inr ⟨hb, h⟩
  · next hb =>
    cases h
    exact .inl ⟨hb, rfl⟩

theorem execPlaneRead_cases {p r c : Nat} (h : execPlaneRead p r c s = .next t) :
    t = { s with result := t.result, draws := t.draws } := by
  unfold execPlaneRead at h
  split at h
  · split at h
    · cases h
      rfl
    · split at h
      · cases h
        rfl
      · cases h
  · cases h

end Sys2Proof.Machine
end

