-- ==== Sys2Proof/Tests/Slice0.lean ====
section
/-! SUPPORT. The model's own tests: which operations the well-formedness check refuses, the words written out from the
spec's encodings (each constructor once), the spec's test vectors (spec/95, the numbers of the spec, not of the model),
and for every obligation with hypotheses a concrete state that meets them all. -/

namespace Sys2Proof.Tests

open Sys2Proof.Machine

/-! ## Well-formedness: what each check refuses -/

theorem test_wf_unpackLow_data_word : (Instr.unpackLow 1 0 0).wellFormed = false := by decide
theorem test_wf_unpackLow_packing_word : (Instr.unpackLow 0 2 0).wellFormed = false := by decide
theorem test_wf_unpackLow_lane : (Instr.unpackLow 0 0 4).wellFormed = false := by decide
theorem test_wf_packRemove_group : (Instr.packRemove 648 0).wellFormed = false := by decide
theorem test_wf_packRemove_lane : (Instr.packRemove 0 5).wellFormed = false := by decide
theorem test_wf_planeAlloc_row : (Instr.planeAlloc 1944 0).wellFormed = false := by decide
theorem test_wf_planeAlloc_column : (Instr.planeAlloc 0 2592).wellFormed = false := by decide
theorem test_wf_planeWrite_row : (Instr.planeWrite 1944 0 0).wellFormed = false := by decide
theorem test_wf_planeWrite_column : (Instr.planeWrite 0 2592 0).wellFormed = false := by decide
theorem test_wf_planeRead_plane : (Instr.planeRead 3 0 0).wellFormed = false := by decide
theorem test_wf_planeRead_row : (Instr.planeRead 0 1944 0).wellFormed = false := by decide
theorem test_wf_planeRead_column : (Instr.planeRead 0 0 2592).wellFormed = false := by decide
theorem test_wf_boundaries : (Instr.planeRead 2 1943 2591).wellFormed = true
    ∧ (Instr.unpackLow 1020 1020 3).wellFormed = true ∧ (Instr.packRemove 647 4).wellFormed = true := by decide

/-! ## Decoding: the words of spec/30 R82 and R89, and each name in ASCII (R91), a zero byte, and its operands -/

theorem test_decode_marker_check : decode [0x42, 0x52, 0x43, 0x4D] = .op .markerCheck [] := by decide
theorem test_decode_plane_select_green_e : decode [0b00] = .op .planeSelectGreenE [] := by decide
theorem test_decode_plane_select_blue : decode [0b01] = .op .planeSelectBlue [] := by decide
theorem test_decode_plane_select_red : decode [0b10] = .op .planeSelectRed [] := by decide
theorem test_decode_plane_select_green_o : decode [0b11] = .op .planeSelectGreenO [] := by decide
theorem test_decode_start : decode [0x53, 0x54, 0x41, 0x52, 0x54, 0x00] = .op (.start) [] := by decide
theorem test_decode_frame_extract : decode
    [0x46, 0x52, 0x41, 0x4D, 0x45, 0x5F, 0x45, 0x58, 0x54, 0x52, 0x41, 0x43, 0x54, 0x00]
      = .op (.frameExtract) [] := by decide
theorem test_decode_header_skip : decode
    [0x48, 0x45, 0x41, 0x44, 0x45, 0x52, 0x5F, 0x53, 0x4B, 0x49, 0x50, 0x00]
      = .op (.headerSkip) [] := by decide
theorem test_decode_row_frame : decode
    [0x52, 0x4F, 0x57, 0x5F, 0x46, 0x52, 0x41, 0x4D, 0x45, 0x00]
      = .op (.rowFrame) [] := by decide
theorem test_decode_framing_check : decode
    [0x46, 0x52, 0x41, 0x4D, 0x49, 0x4E, 0x47, 0x5F, 0x43, 0x48, 0x45, 0x43, 0x4B, 0x00]
      = .op (.framingCheck) [] := by decide
theorem test_decode_row_drop : decode
    [0x52, 0x4F, 0x57, 0x5F, 0x44, 0x52, 0x4F, 0x50, 0x00]
      = .op (.rowDrop) [] := by decide
theorem test_decode_row_trim : decode
    [0x52, 0x4F, 0x57, 0x5F, 0x54, 0x52, 0x49, 0x4D, 0x00]
      = .op (.rowTrim) [] := by decide
theorem test_decode_data_latch : decode
    [0x44, 0x41, 0x54, 0x41, 0x5F, 0x4C, 0x41, 0x54, 0x43, 0x48, 0x00]
      = .op (.dataLatch) [] := by decide
theorem test_decode_group_emit : decode
    [0x47, 0x52, 0x4F, 0x55, 0x50, 0x5F, 0x45, 0x4D, 0x49, 0x54, 0x00]
      = .op (.groupEmit) [] := by decide
theorem test_decode_widen : decode [0x57, 0x49, 0x44, 0x45, 0x4E, 0x00, 0x80] = .op (.widen 0x80) [] := by decide
theorem test_decode_unpack_low : decode
    [0x55, 0x4E, 0x50, 0x41, 0x43, 0x4B, 0x5F, 0x4C, 0x4F, 0x57, 0x00, 0x00, 0xD0, 0x00, 0x6C, 0x00, 0x01]
      = .op (.unpackLow 208 108 1) [] := by decide
theorem test_decode_pack_remove : decode
    [0x50, 0x41, 0x43, 0x4B, 0x5F, 0x52, 0x45, 0x4D, 0x4F, 0x56, 0x45, 0x00, 0x02, 0x87, 0x00, 0x03]
      = .op (.packRemove 647 3) [] := by decide
theorem test_decode_plane_alloc : decode
    [0x50, 0x4C, 0x41, 0x4E, 0x45, 0x5F, 0x41, 0x4C, 0x4C, 0x4F, 0x43, 0x00, 0x07, 0x97, 0x0A, 0x1F]
      = .op (.planeAlloc 1943 2591) [] := by decide
theorem test_decode_plane_write : decode
    [0x50, 0x4C, 0x41, 0x4E, 0x45, 0x5F, 0x57, 0x52, 0x49, 0x54, 0x45, 0x00, 0x07, 0x97, 0x0A, 0x1F, 0x03, 0xFF]
      = .op (.planeWrite 1943 2591 1023) [] := by decide
theorem test_decode_step : decode [0x53, 0x54, 0x45, 0x50, 0x00] = .op (.step) [] := by decide
theorem test_decode_finish : decode [0x46, 0x49, 0x4E, 0x49, 0x53, 0x48, 0x00] = .op (.finish) [] := by decide
theorem test_decode_decode : decode [0x44, 0x45, 0x43, 0x4F, 0x44, 0x45, 0x00] = .op (.decode) [] := by decide
theorem test_decode_len_write : decode
    [0x4C, 0x45, 0x4E, 0x5F, 0x57, 0x52, 0x49, 0x54, 0x45, 0x00, 0x00, 0x61, 0xB8, 0x00]
      = .op (.lenWrite 6404096) [] := by decide
theorem test_decode_len_read : decode
    [0x4C, 0x45, 0x4E, 0x5F, 0x52, 0x45, 0x41, 0x44, 0x00]
      = .op (.lenRead) [] := by decide
theorem test_decode_in_write : decode
    [0x49, 0x4E, 0x5F, 0x57, 0x52, 0x49, 0x54, 0x45, 0x00, 0x00, 0x61, 0xB7, 0xFF, 0x4D]
      = .op (.inWrite 6404095 0x4D) [] := by decide
theorem test_decode_status_read : decode
    [0x53, 0x54, 0x41, 0x54, 0x55, 0x53, 0x5F, 0x52, 0x45, 0x41, 0x44, 0x00]
      = .op (.statusRead) [] := by decide
theorem test_decode_cause_read : decode
    [0x43, 0x41, 0x55, 0x53, 0x45, 0x5F, 0x52, 0x45, 0x41, 0x44, 0x00]
      = .op (.causeRead) [] := by decide
theorem test_decode_plane_read : decode
    [0x50, 0x4C, 0x41, 0x4E, 0x45, 0x5F, 0x52, 0x45, 0x41, 0x44, 0x00, 0x00, 0x02, 0x07, 0x97, 0x0A, 0x1F]
      = .op (.planeRead 2 1943 2591) [] := by decide
theorem test_decode_reset : decode [0x52, 0x45, 0x53, 0x45, 0x54, 0x00] = .op (.reset) [] := by decide

/-- Reserved and short bytes are rejected by name: no byte, an unknown name (BRCL, one bit off the marker, then a zero), a
name without its end, a name without its operands, a sample field above 1023. -/
theorem test_decode_rejects : decode [] = .reject .empty
    ∧ decode [0x42, 0x52, 0x43, 0x4C, 0x00] = .reject .unknownName
    ∧ decode [0x53, 0x54, 0x41, 0x52, 0x54] = .reject .unterminatedName
    ∧ decode [0x57, 0x49, 0x44, 0x45, 0x4E, 0x00] = .reject .missingOperand := by decide

theorem test_decode_rejects_wide_sample : decode
    [0x50, 0x4C, 0x41, 0x4E, 0x45, 0x5F, 0x57, 0x52, 0x49, 0x54, 0x45, 0x00, 0x00, 0x00, 0x00, 0x00, 0x04, 0x00]
      = .reject .badOperand := by decide

theorem test_table_words : decodeTableWord 32 0x4252434D = some .markerCheck ∧ decodeTableWord 8 2 = some .planeSelectRed := by decide

/-! ## Small states -/

/-- A frame at base 100 in a buffer of 6,404,196 bytes: the marker, the packing byte 0x1B of group (0, 0) and of group
(1, 0), data 0xA9 at lanes 0 and 3 of group (1943, 647) with packing byte 0x01, everything else 0. -/
def frame : Memory :=
  [(100, 0x42), (101, 0x52), (102, 0x43), (103, 0x4D), (32872, 0x1B), (36136, 0x1B), (6378055, 0xA9), (6378058, 0xA9),
    (6378059, 0x01)]

/-- A BUSY block at a frame offset of that frame, with 12 34 56 78 in D. -/
def busyAt (o : Nat) : State :=
  { State.reset with
    status := .busy
    len := 6404196
    base := 100
    off := BitVec.ofNat 23 o
    held := { d0 := 0x12, d1 := 0x34, d2 := 0x56, d3 := 0x78 }
    inp := frame }

/-- The same with another IN. -/
def busyWith (o : Nat) (m : Memory) : State := { busyAt o with inp := m }

/-- An idle block whose buffer is that frame behind a preview of 100 bytes. -/
def ready : State := { State.reset with len := 6404196, inp := frame }

/-- A BUSY block at the end of that frame, with a PLANE. -/
def atEnd (m : PlaneMem) : State := { busyAt 6404096 with plane := m }

/-- A PLANE that holds the result of that frame. -/
def Holds (m : PlaneMem) : Prop := m.wf ∧ ∀ p r c, p < 3 → r < 1944 → c < 2592 →
  readPlane Geometry.bfu m p r c = some (outputWord Geometry.bfu frame 100 p r c)

/-- What one asks of the next state, if there is one. -/
def after {α : Type} (f : State → α) : Host.Outcome State Fault Refusal → Option α
  | .next t => some (f t)
  | .fault _ => none
  | .refused _ => none

/-- The three words of PLANE at a coordinate, Red, Green, Blue. -/
def words (r c : Nat) (s : State) : List (Option Sample) :=
  [readPlane Geometry.bfu s.plane 0 r c, readPlane Geometry.bfu s.plane 1 r c, readPlane Geometry.bfu s.plane 2 r c]

/-! ## The spec's vectors, spec/95 part 2 -/

theorem test_memory_wf : frame.wf ∧ (writeIn frame 36136 0).wf ∧ (writeIn frame 0 7).wf := by decide

/-- V-F3, V-F4, V-F6, V-F7. -/
theorem test_frame_extract :
    after (fun t => (t.status, t.cause, t.base)) (exec .frameExtract { State.reset with len := 6404095 })
      = some (.error, .shortBuffer, 0) ∧
    after (fun t => (t.status, t.base)) (exec .frameExtract { State.reset with len := 6404096 }) = some (.idle, 0) ∧
    after (fun t => (t.status, t.base)) (exec .frameExtract { State.reset with len := 6404103 }) = some (.idle, 7) ∧
    after (fun t => (t.status, t.base)) (exec .frameExtract { State.reset with len := 4294967295 })
      = some (.idle, 4288563199) := by decide

/-- V-M1 at byte 3, V-M5. -/
theorem test_marker_check :
    after (fun t => (t.status, t.off)) (exec .markerCheck (busyAt 3)) = some (.busy, 4) ∧
    after (fun t => (t.status, t.cause, t.off)) (exec .markerCheck (busyWith 3 [(103, 0x4C)]))
      = some (.error, .badMarker, 3) := by decide

/-- V-C4. -/
theorem test_header_skip : after (fun t => (t.status, t.off)) (exec .headerSkip (busyAt 32767)) = some (.busy, 32768) := by
  decide

/-- V-C1 to V-C4, V-C23. -/
theorem test_phases : [0, 3, 4, 32767, 32768, 6404095, 6404096].map (stepOperation Geometry.bfu)
    = [.markerCheck, .markerCheck, .headerSkip, .headerSkip, .rowFrame, .rowFrame, .finish] := by decide

/-- V-C5 to V-C22. -/
theorem test_row_operations :
    [32768, 32771, 32773, 36032, 65433, 6377955].map (rowOperation Geometry.bfu) = List.replicate 6 .dataLatch ∧
    [32772, 36007, 42535, 65437, 6377959].map (rowOperation Geometry.bfu) = List.replicate 5 .groupEmit ∧
    [36008, 36031, 42536, 6377960, 6377983].map (rowOperation Geometry.bfu) = List.replicate 5 .rowTrim ∧
    [6377984, 6404095].map (rowOperation Geometry.bfu) = List.replicate 2 .rowDrop := by decide

/-- V-C15, V-C16, V-C18: row, group, lane. -/
theorem test_positions :
    [65433, 65437, 6377959].map (fun o => (rowAt Geometry.bfu o, groupAt Geometry.bfu o, laneAt Geometry.bfu o))
      = [(10, 5, 0), (10, 5, 4), (1943, 647, 4)] := by decide

/-- V-C18 and V-C21: a packing byte writes words, a dropped byte only advances. -/
theorem test_row_frame :
    after (words 1943 2588) (exec .rowFrame (busyAt 6377959)) = some [some 72, some 0, some 0] ∧
    after (fun t => (t.off, t.plane, t.held)) (exec .rowFrame (busyAt 6377984))
      = some (6377985, [], { d0 := 0x12, d1 := 0x34, d2 := 0x56, d3 := 0x78 }) := by decide

theorem test_framing_check : after (fun t => (t.status, t.off)) (exec .framingCheck (busyAt 32768))
    = some (.busy, 32768) := by decide

theorem test_row_drop_and_trim : exec .rowDrop (busyAt 6377984) = .next (busyAt 6377984)
    ∧ exec .rowTrim (busyAt 36008) = .next (busyAt 36008) := ⟨rfl, rfl⟩

/-- R130: lane 3 of group (1943, 647). -/
theorem test_data_latch : after (fun t => (t.held, t.off)) (exec .dataLatch (busyAt 6377958))
    = some ({ d0 := 0x12, d1 := 0x34, d2 := 0x56, d3 := 0xA9 }, 6377958) := by decide

/-- V-G5 in row 1: samples 72 209 346 483, Red and Green in turn, zero beside each. -/
theorem test_group_emit :
    after (fun t => (words 1 0 t, words 1 1 t, words 1 2 t, words 1 3 t)) (exec .groupEmit (busyAt 36036))
      = some ([some 72, some 0, some 0], [some 0, some 209, some 0], [some 346, some 0, some 0],
          [some 0, some 483, some 0]) := by decide

/-- V-W1 to V-W6. -/
theorem test_widen : [0x00, 0x01, 0x12, 0x7F, 0x80, 0xFF].map (fun b => after State.result (exec (.widen b) ready))
    = [0, 4, 72, 508, 512, 1020].map (fun v => some (.sample v)) := by decide

/-- V-G5, V-G14, V-G16, V-G18. -/
theorem test_unpack_low :
    [(0x12, 0), (0x34, 1), (0x56, 2), (0x78, 3)].map (fun x => unpackPair (widenByte x.1) (widenByte 0x1B) x.2)
      = [72, 209, 346, 483] ∧
    [(0x80, 0), (0x40, 1), (0x20, 2), (0x10, 3)].map (fun x => unpackPair (widenByte x.1) (widenByte 0xE4) x.2)
      = [515, 258, 129, 64] ∧
    [(0xFF, 0), (0x00, 1), (0x80, 2), (0x00, 3)].map (fun x => unpackPair (widenByte x.1) (widenByte 0xC6) x.2)
      = [1023, 0, 513, 2] ∧
    [(0x7F, 0), (0x80, 1), (0x00, 2), (0xFF, 3)].map (fun x => unpackPair (widenByte x.1) (widenByte 0x2D) x.2)
      = [508, 514, 3, 1021] := by decide

theorem test_unpack_low_returns : after State.result (exec (.unpackLow 208 108 1) ready) = some (.sample 209)
    ∧ exec (.unpackLow 208 108 4) ready = .refused .noSuchLane := ⟨by decide, rfl⟩

/-- V-E1 to V-E4. -/
theorem test_encoder :
    (packHigh 1023, packHigh 0, packHigh 513, packHigh 2, packLow 1023 0 513 2) = (0xFF, 0x00, 0x80, 0x00, 0xC6) ∧
    (packHigh 1, packHigh 2, packHigh 3, packHigh 4, packLow 1 2 3 4) = (0x00, 0x00, 0x00, 0x01, 0x6C) ∧
    (packHigh 700, packHigh 701, packHigh 702, packHigh 703, packLow 700 701 702 703) = (0xAF, 0xAF, 0xAF, 0xAF, 0x1B) ∧
    (packHigh 1000, packHigh 999, packHigh 998, packHigh 997, packLow 1000 999 998 997)
      = (0xFA, 0xF9, 0xF9, 0xF9, 0x39) := by decide

/-- V-R2, V-R3, V-R6, V-R8, V-R9. -/
theorem test_pack_remove :
    [(0, 3), (0, 4), (5, 0), (647, 3), (647, 4)].map (fun x => after State.result (exec (.packRemove x.1 x.2) ready))
      = [some 3, none, some 20, some 2591, none].map (fun c => some (.column c)) := by decide

/-- V-S1 to V-S11. -/
theorem test_plane_select :
    [(0, 0), (0, 1), (1, 0), (1, 1), (10, 21), (11, 20), (1942, 2591), (1943, 2590), (1943, 2591)].map
      (fun x => sel x.1 x.2) = [.green, .blue, .red, .green, .blue, .red, .blue, .red, .green] := by decide

theorem test_plane_select_rows :
    [.planeSelectGreenE, .planeSelectBlue, .planeSelectRed, .planeSelectGreenO].map (fun i => after State.result (exec i ready))
      = [Plane.green, .blue, .red, .green].map (fun p => some (.plane p)) := by decide

/-- V-P1 to V-P4, V-P6. -/
theorem test_plane_write :
    after (words 0 0) (exec (.planeWrite 0 0 72) (busyAt 32772)) = some [some 0, some 72, some 0] ∧
    after (words 0 1) (exec (.planeWrite 0 1 209) (busyAt 32772)) = some [some 0, some 0, some 209] ∧
    after (words 1 0) (exec (.planeWrite 1 0 515) (busyAt 32772)) = some [some 515, some 0, some 0] ∧
    after (words 1943 2591) (exec (.planeWrite 1943 2591 1023) (busyAt 32772)) = some [some 0, some 1023, some 0] := by
  decide

/-- R150: the two planes not selected at (1, 0), where Red is. -/
theorem test_plane_alloc : after (words 1 0) (exec (.planeAlloc 1 0) (busyAt 32772)) = some [none, some 0, some 0] := by
  decide

/-- V-H2, V-H4, V-H5. -/
theorem test_start :
    after (fun t => (t.status, t.cause)) (exec .start State.reset) = some (.error, .shortBuffer) ∧
    after (fun t => (t.status, t.cause, t.base, t.off))
      (exec .start { State.reset with status := .error, cause := .shortBuffer, len := 6404096, off := 9 })
      = some (.busy, .none, 0, 0) ∧
    after (fun t => (t.status, t.off)) (exec .start (busyAt 1000)) = some (.busy, 1000) := by decide

/-- V-H6, and a step that is none. -/
theorem test_finish_and_step :
    after (fun t => (t.status, t.cause)) (exec .finish (busyAt 6404096)) = some (.done, .none) ∧
    after (fun t => (t.status, t.cause)) (exec .step (busyAt 6404096)) = some (.done, .none) ∧
    after (fun t => (t.status, t.off)) (exec .step (busyAt 0)) = some (.busy, 1) ∧
    after State.status (exec .step ready) = some .idle := by decide

/-- P2, P3b. -/
theorem test_decode_fails :
    after (fun t => (t.status, t.cause, t.off)) (exec .decode { State.reset with len := 6404095 })
      = some (.error, .shortBuffer, 0) ∧
    after (fun t => (t.status, t.cause, t.base, t.off))
      (exec .decode { State.reset with len := 6404100, inp := [(0, 0x42), (1, 0x52), (2, 0x43), (3, 0x4D)] })
      = some (.error, .badMarker, 4, 0) := by decide

/-- V-H3, and R179's example at offset 3. -/
theorem test_host_writes :
    after (fun t => (t.len, t.status, t.cause))
      (exec (.lenWrite 6404096) { State.reset with status := .error, cause := .shortBuffer })
      = some (6404096, .error, .shortBuffer) ∧
    after State.inp (exec (.inWrite 3 0x4D) State.reset) = some [(3, 0x4D)] ∧
    after State.inp (exec (.inWrite 3 0) { State.reset with inp := [(3, 0x4D)] }) = some [] := by decide

/-- V-H1, V-H7, and the codes of R26 and R27. -/
theorem test_register_reads :
    after State.result (exec .statusRead State.reset) = some (.status 0) ∧
    after State.result (exec .causeRead State.reset) = some (.cause 0) ∧
    after State.result (exec .lenRead State.reset) = some (.len 0) ∧
    after (fun t => (t.result, t.status)) (exec .statusRead { State.reset with status := .done })
      = some (.status 2, .done) ∧
    after State.result (exec .causeRead { State.reset with status := .error, cause := .badMarker }) = some (.cause 2) := by
  decide

/-- V-H9; and a word that is there. -/
theorem test_plane_read : exec (.planeRead 1 0 0) State.reset = .fault .planeNoValue
    ∧ after State.result (exec (.planeRead 2 0 1) { State.reset with status := .done, plane := [(10077697, 209)] })
      = some (.word 209) := ⟨rfl, by decide⟩

/-- V-H10. -/
theorem test_reset : after (fun t => (t.status, t.cause, t.len, t.off, t.plane, t.inp)) (exec .reset (busyAt 1000))
    = some (.idle, .none, 0, 0, [], frame) := rfl

/-- R26: the level outputs. -/
theorem test_outputs : doneOutput { State.reset with status := .done } = true ∧ errorOutput (busyAt 0) = false
    ∧ errorOutput { State.reset with status := .error } = true ∧ doneOutput ready = false := by decide

/-! ## The record TOY, spec/95 T1: the whole decode by the closed form -/

/-- T1's capture. -/
def toyState : State :=
  { State.reset with
    len := 47
    inp := ([0xEE, 0xEE, 0xEE, 0x42, 0x52, 0x43, 0x4D, 0xFF, 0xFF, 0xFF, 0xFF,
        0x12, 0x34, 0x56, 0x78, 0x1B, 0x80, 0x40, 0x20, 0x10, 0xE4, 0xF1, 0xF2,
        0xFF, 0x00, 0x80, 0x00, 0xC6, 0xAA, 0x55, 0xAA, 0x55, 0x99, 0xF3, 0xF4] : List Byte).zipIdx.foldl
      (fun m x => writeIn m x.2 x.1) [] }

theorem test_toy_decode :
    (transact Geometry.toy toyState).plane.map (fun x => x.2)
      = [0, 0, 0, 0, 0, 0, 0, 0, 1023, 0, 513, 0, 682, 0, 682, 0,
         72, 0, 346, 0, 515, 0, 129, 0, 0, 0, 0, 2, 0, 341, 0, 341,
         0, 209, 0, 483, 0, 258, 0, 64, 0, 0, 0, 0, 0, 0, 0, 0] := by decide

/-! ## The machine's step -/

/-- The host's interface: a word of the table is the next thing a step from reset performs. -/
theorem test_step_from_reset :
    after (fun t => (t.status, t.off)) (step (State.reset.withFetchWord 32 0x4252434D)) = some (.busy, 1) ∧
    after State.result (step (State.reset.withFetchWord 8 2)) = some (.plane .red) := by decide

/-! ## Witnesses: for each obligation with hypotheses, a state and operands that meet them all -/

theorem running_busyAt (o : Nat) : Running (busyAt o) := ⟨rfl, rfl⟩

theorem kept_lt_end {r g k : Nat} (hr : r < 1944) (hg : g < 648) (hk : k < 5) :
    keptOffset Geometry.bfu r g k < 6404096 := by
  rw [keptOffset_eq]
  omega

/-- The invariants of a BUSY state that has passed no group. -/
theorem inv_of_header {s : State} (hm : s.inp.wf) (hp : s.plane.wf) (hb : s.status = .busy) (hc : s.cause = .none)
    (hn : s.outcomeOpen = false) (hl : s.base.toNat + 6404096 = s.len.toNat) (ho : s.off.toNat ≤ 32768) : MachineInv s where
  memory := hm
  planes := hp
  opened := fun h => by simp [hn] at h
  cause := fun _ => by simp [hb, hc]
  framing := fun _ => by simp [hc]
  idle := fun _ h => by simp [hb] at h
  busy := fun _ _ => ⟨hl, by omega⟩
  written := fun _ _ p r c _ _ _ h => by
    rw [keptOffset_eq] at h
    omega
  done := fun _ h => by simp [hb] at h

theorem holds_result : Holds (outputPlanes Geometry.bfu frame 100) :=
  ⟨outputPlanes_wf _ _, fun _ _ _ hp hr hc => readPlane_outputPlanes _ _ hp hr hc⟩

theorem inv_atEnd {m : PlaneMem} (h : Holds m) : MachineInv (atEnd m) where
  memory := test_memory_wf.1
  planes := h.1
  opened := fun h => by cases h
  cause := fun _ => by simp [atEnd, busyAt, State.reset]
  framing := fun _ h => by cases h
  idle := fun _ h => by cases h
  busy := fun _ _ =>
    show (busyAt 6404096).base.toNat + 6404096 = (busyAt 6404096).len.toNat ∧ (busyAt 6404096).off.toNat ≤ 6404096 by
      decide
  written := fun _ _ p r c hp hr hc _ => Option.isSome_of_eq_some (h.2 p r c hp hr hc)
  done := fun _ h => by cases h

theorem inv_done {m : PlaneMem} (h : Holds m) : MachineInv (finish (atEnd m)) where
  memory := test_memory_wf.1
  planes := h.1
  opened := fun h => by cases h
  cause := fun _ => by simp [atEnd, busyAt, State.reset]
  framing := fun _ h => by cases h
  idle := fun _ h => by cases h
  busy := fun _ h => by cases h
  written := fun _ h => by cases h
  done := fun _ _ p r c hp hr hc => Option.isSome_of_eq_some (h.2 p r c hp hr hc)

theorem progress_atEnd {m : PlaneMem} (h : Holds m) : Progress (atEnd m) where
  marker := fun i hi _ => by
    have : ∀ i, i < 4 → readIn frame (100 + i) = markerByte i := by decide
    exact this i hi
  latched := fun r g j k hr hg hj _ h => by
    have := kept_lt_end hr hg (k := j) (by omega)
    have e : (atEnd m).off.toNat = 6404096 := rfl
    omega
  planes := fun p r c hp hr hc _ => h.2 p r c hp hr hc

theorem inv_busyAt_0 : MachineInv (busyAt 0) :=
  inv_of_header test_memory_wf.1 planeMem_wf_nil rfl rfl rfl rfl (by decide)

theorem progress_busyAt_0 : Progress (busyAt 0) where
  marker := by decide
  latched := fun r g j k _ _ _ _ h => by
    rw [keptOffset_eq] at h
    have e : (busyAt 0).off.toNat = 0 := rfl
    omega
  planes := fun p r c _ _ _ h => by
    rw [keptOffset_eq] at h
    have e : (busyAt 0).off.toNat = 0 := rfl
    omega

theorem witness_DecodeOfEncode : (Instr.planeWrite 1943 2591 1023).wellFormed = true
    ∧ (Instr.unpackLow 1020 1020 3).wellFormed = true ∧ Instr.reset.wellFormed = true := by decide

theorem witness_PhaseFollowsOffset : (3 : Nat) ≤ 6404096 ∧ (32767 : Nat) ≤ 6404096 ∧ (6404095 : Nat) ≤ 6404096
    ∧ (6404096 : Nat) ≤ 6404096 := by decide

/-- The last kept byte; and two different ones. -/
theorem witness_KeptBytesClosedForm : 1943 < 1944 ∧ 647 < 648 ∧ 4 < 5 ∧ 32768 + 3264 * 1943 + 5 * 647 + 4 = 6377959
    ∧ rowOperation Geometry.bfu 6377959 = .groupEmit ∧ rowOperation Geometry.bfu 32768 = .dataLatch := by decide

/-- START and FINISH at the port: taken, and not taken. -/
theorem witness_StepRunsPresentedOperation :
    decode [0x53, 0x54, 0x41, 0x52, 0x54, 0x00] = .op .start [] ∧ Instr.start.presentable = true
    ∧ decode [0x46, 0x49, 0x4E, 0x49, 0x53, 0x48, 0x00] = .op .finish [] ∧ Instr.finish.presentable = false := by decide

theorem witness_StepRunsSelectedOperation : Running (busyAt 6404096) ∧ (busyAt 6404096).port = []
    ∧ (busyAt 6404096).off.toNat ≤ 6404096 ∧ (busyAt 6404096).base.toNat + 6404096 ≤ (busyAt 6404096).len.toNat :=
  ⟨running_busyAt _, by decide⟩

theorem witness_IdleBlockDoesNothing : ready.status ≠ .busy ∧ ready.port = [] := by decide

theorem witness_StepOperationCompletes : ready.status ≠ .busy ∧ Running (busyAt 3) ∧ (busyAt 3).off.toNat ≤ 6404096
    ∧ (busyAt 3).base.toNat + 6404096 ≤ (busyAt 3).len.toNat := ⟨by decide, running_busyAt _, by decide⟩

theorem witness_StepKeepsInvariant : MachineInv (busyAt 0) ∧ step (busyAt 0) = .next (busyAt 1) := ⟨inv_busyAt_0, rfl⟩

theorem witness_StepKeepsProgress : MachineInv (busyAt 0) ∧ (Running (busyAt 0) → Progress (busyAt 0))
    ∧ step (busyAt 0) = .next (busyAt 1) ∧ Running (busyAt 1) :=
  ⟨inv_busyAt_0, fun _ => progress_busyAt_0, rfl, running_busyAt _⟩

theorem witness_FinishDeliversResult :
    ∃ m, MachineInv (atEnd m) ∧ Running (atEnd m) ∧ Progress (atEnd m) ∧ (atEnd m).off.toNat = 6404096 :=
  ⟨_, inv_atEnd holds_result, ⟨rfl, rfl⟩, progress_atEnd holds_result, rfl⟩

theorem witness_SequencerAgreesWithDecode : ready.status ≠ .busy ∧ ready.plane.wf ∧ ready.port = []
    ∧ exec .start ready = .next { busyAt 0 with held := State.reset.held } :=
  ⟨by decide, planeMem_wf_nil, rfl, rfl⟩

theorem witness_EveryDecodeEnds : MachineInv (busyAt 0) ∧ Running (busyAt 0) ∧ (busyAt 0).port = [] :=
  ⟨inv_busyAt_0, running_busyAt _, rfl⟩

theorem witness_DecodeWhileBusyWaits : MachineInv (busyAt 0) ∧ Running (busyAt 0) ∧ Progress (busyAt 0) :=
  ⟨inv_busyAt_0, running_busyAt _, progress_busyAt_0⟩

/-- The last step of a wait: at the end of the frame DONE, at a wrong marker byte ERROR. -/
theorem witness_DecodeWhileBusyWaits_ends :
    (∃ m, MachineInv (atEnd m) ∧ Running (atEnd m) ∧ Progress (atEnd m)
      ∧ after State.status (exec .step (atEnd m)) = some .done) ∧
    (MachineInv (busyWith 3 [(103, 0x4C)]) ∧ Running (busyWith 3 [(103, 0x4C)])
      ∧ after (fun t => (t.status, t.plane)) (exec .decode (busyWith 3 [(103, 0x4C)])) = some (.error, [])) :=
  ⟨⟨_, inv_atEnd holds_result, ⟨rfl, rfl⟩, progress_atEnd holds_result, rfl⟩,
    inv_of_header (by decide) planeMem_wf_nil rfl rfl rfl rfl (by decide), ⟨rfl, rfl⟩, rfl⟩

/-- A wrong last marker byte, at off 3; LEN = 0; the first packing byte; the byte before it; and a decode whose first step
raises. -/
theorem witness_RaiseIsPreciseAndWritesNoPlane : MachineInv (busyWith 3 [(103, 0x4C)]) ∧ Running (busyWith 3 [(103, 0x4C)])
    ∧ (∃ t, exec .step (busyWith 3 [(103, 0x4C)]) = .next t ∧ t.status = .error)
    ∧ (∃ t, exec .start State.reset = .next t ∧ t.status = .error)
    ∧ rowOperation Geometry.bfu 32772 = .groupEmit
    ∧ (Running (busyAt 32771) ∧ (busyAt 32771).off.toNat < 32772 ∧ ∃ t, exec .step (busyAt 32771) = .next t)
    ∧ (ready.status ≠ .busy ∧ ready.port = []
      ∧ exec .start { ready with inp := [] } = .next { busyWith 0 [] with held := State.reset.held }
      ∧ ∃ u, run 1 { busyWith 0 [] with held := State.reset.held } = .next u ∧ u.status = .error) :=
  ⟨inv_of_header (by decide) planeMem_wf_nil rfl rfl rfl rfl (by decide), ⟨rfl, rfl⟩, ⟨_, rfl, rfl⟩, ⟨_, rfl, rfl⟩,
    by decide, ⟨running_busyAt _, by decide, _, rfl⟩, by decide, rfl, rfl, _, rfl, rfl⟩

/-- One state for each outcome: one byte short, a wrong last marker byte, a right marker; and a right marker in the
smallest buffer. -/
theorem witness_DecodeOutcomes :
    (State.reset.status ≠ .busy ∧ ({ ready with len := 6404095 } : State).len.toNat < 6404096) ∧
    (ready.status ≠ .busy ∧ 6404096 ≤ ready.len.toNat
      ∧ readIn [(103, 0x4C)] (ready.len.toNat - 6404096 + 3) ≠ markerByte 3) ∧
    (6404096 ≤ ready.len.toNat ∧ ∀ i, i < 4 → readIn ready.inp (ready.len.toNat - 6404096 + i) = markerByte i) ∧
    ((6404096 : LenWord).toNat = 6404096
      ∧ ∀ i, i < 4 → readIn [(0, 0x42), (1, 0x52), (2, 0x43), (3, 0x4D)] (6404096 - 6404096 + i) = markerByte i) := by
  decide

/-- The same frame behind two previews. -/
theorem witness_PaddingIsDiscarded : ready.status ≠ .busy ∧ ({ ready with inp := writeIn frame 5 0xEE } : State).status ≠ .busy
    ∧ SameDecodeInput ready { ready with inp := writeIn frame 5 0xEE }
    ∧ (∃ t, exec .decode ready = .next t)
    ∧ ∃ t, exec .decode { ready with inp := writeIn frame 5 0xEE } = .next t := by
  refine ⟨by decide, by decide, ⟨rfl, by decide, fun r g k _ _ _ => ?_⟩, ⟨_, rfl⟩, ⟨_, rfl⟩⟩
  change readIn frame (6404196 - 6404096 + keptOffset Geometry.bfu r g k)
    = readIn (writeIn frame 5 0xEE) (6404196 - 6404096 + keptOffset Geometry.bfu r g k)
  rw [readIn_writeIn, if_neg (by rw [keptOffset_eq]; omega)]

theorem witness_DecodeDependsOnBufferOnly : ready.status ≠ .busy ∧ ({ ready with status := .done, off := 7 } : State).status ≠ .busy
    ∧ ready.len = ({ ready with status := .done, off := 7 } : State).len := by decide

theorem witness_EachCoordinateEmittedOnce : 1943 < 1944 ∧ 2591 < 2592
    ∧ 32768 ≤ 6377959 ∧ 6377959 < 6404096 ∧ rowOperation Geometry.bfu 6377959 = .groupEmit ∧ 3 < 4 := by decide

/-- BUSY; one byte short; just long enough. -/
theorem witness_StartBeginsOrTrapsOrIsIgnored : (busyAt 1000).status = .busy
    ∧ (({ ready with len := 6404095 } : State).status ≠ .busy ∧ ({ ready with len := 6404095 } : State).len.toNat < 6404096)
    ∧ (({ ready with len := 6404096 } : State).status ≠ .busy ∧ 6404096 ≤ ({ ready with len := 6404096 } : State).len.toNat) := by
  decide

theorem witness_FrameExtractLocatesFrame :
    (({ ready with len := 6404095 } : State).status ≠ .busy ∧ ({ ready with len := 6404095 } : State).len.toNat < 6404096)
    ∧ (({ ready with len := 6404096 } : State).status ≠ .busy ∧ 6404096 ≤ ({ ready with len := 6404096 } : State).len.toNat) := by
  decide

/-- At off 3: the right byte, and another. -/
theorem witness_MarkerCheckComparesByte : Running (busyAt 3) ∧ (busyAt 3).off.toNat < 4
    ∧ (busyAt 3).base.toNat + (busyAt 3).off.toNat < (busyAt 3).len.toNat
    ∧ ([0x42, 0x52, 0x43, 0x4D] : List Byte)[(busyAt 3).off.toNat]? = some 0x4D
    ∧ readIn frame (100 + 3) = 0x4D ∧ readIn [(103, 0x4C)] (100 + 3) ≠ 0x4D := ⟨running_busyAt _, by decide⟩

theorem witness_HeaderSkipAdvancesOnly : Running (busyAt 32767) ∧ 4 ≤ (busyAt 32767).off.toNat
    ∧ (busyAt 32767).off.toNat ≤ 32767 := ⟨running_busyAt _, by decide⟩

/-- The common hypotheses at the last kept byte, and a row and a byte column for each of the four clauses. -/
theorem witness_RowFrameClassifiesByte : Running (busyAt 6377959) ∧ 32768 ≤ (busyAt 6377959).off.toNat
    ∧ (busyAt 6377959).off.toNat < 6404096
    ∧ (busyAt 6377959).base.toNat + (busyAt 6377959).off.toNat < (busyAt 6377959).len.toNat
    ∧ [6377984, 6377960, 6377958, 6377959].map (fun o => ((o - 32768) / 3264, (o - 32768) % 3264, (o - 32768) % 3264 % 5))
      = [(1944, 0, 0), (1943, 3240, 0), (1943, 3238, 3), (1943, 3239, 4)] := ⟨running_busyAt _, by decide⟩

theorem witness_FramingCheckAlwaysPasses : Running (busyAt 32768) ∧ (busyAt 32768).off.toNat = 32768 :=
  ⟨running_busyAt _, rfl⟩

theorem witness_BadFramingNeverRaised : (busyAt 32768).outcomeOpen = false ∧ (busyAt 32768).cause ≠ .badFraming
    ∧ exec .framingCheck (busyAt 32768) = .next (busyAt 32768) := ⟨rfl, by decide, rfl⟩

/-- The first dropped byte and the first trimmed byte of the last kept row. -/
theorem witness_PaddingOperationsSkip : Running (busyAt 6377984) ∧ (busyAt 6377984).off.toNat = 32768 + 3264 * 1944 + 0
    ∧ Running (busyAt 6377960) ∧ (busyAt 6377960).off.toNat = 32768 + 3264 * 1943 + 3240 ∧ 3240 < 3264 :=
  ⟨running_busyAt _, rfl, running_busyAt _, rfl, by decide⟩

theorem witness_DataLatchHoldsByte : Running (busyAt 6377958)
    ∧ (busyAt 6377958).off.toNat = 32768 + 3264 * 1943 + 5 * 647 + 3
    ∧ (busyAt 6377958).base.toNat + (busyAt 6377958).off.toNat < (busyAt 6377958).len.toNat :=
  ⟨running_busyAt _, by decide⟩

theorem witness_GroupEmitWritesTwelveWords : Running (busyAt 6377959)
    ∧ (busyAt 6377959).off.toNat = 32768 + 3264 * 1943 + 5 * 647 + 4
    ∧ (busyAt 6377959).base.toNat + (busyAt 6377959).off.toNat < (busyAt 6377959).len.toNat :=
  ⟨running_busyAt _, by decide⟩

theorem witness_UnpackLowBothForms : 0 < 4 ∧ 3 < 4 := by decide

theorem witness_PackRemoveRenumbers : 647 < 648 ∧ 3 < 4 ∧ 2591 < 2592 := by decide

/-- Two blocks at one packing byte whose D[1] differ, and lane 0. -/
theorem witness_LanesAreIndependent : Running (busyAt 32772)
    ∧ Running { busyAt 32772 with held := (busyAt 32772).held.set 1 0xFF }
    ∧ (busyAt 32772).held.get 0 = ((busyAt 32772).held.set 1 0xFF).get 0
    ∧ (∃ t, exec .groupEmit (busyAt 32772) = .next t)
    ∧ ∃ t, exec .groupEmit { busyAt 32772 with held := (busyAt 32772).held.set 1 0xFF } = .next t :=
  ⟨running_busyAt _, ⟨rfl, rfl⟩, rfl, ⟨_, rfl⟩, ⟨_, rfl⟩⟩

/-- One coordinate for each row of the table. -/
theorem witness_PlaneSelectFollowsParity : 0 % 2 = 0 ∧ 2591 % 2 = 1 ∧ 1943 % 2 = 1 ∧ 2590 % 2 = 0 := by decide

theorem witness_PlaneAllocClearsUnselected : Running (busyAt 32772) ∧ 1943 < 1944 ∧ 2591 < 2592 :=
  ⟨running_busyAt _, by decide⟩

/-- A running block, and one coordinate of each parity at an edge of the planes. -/
theorem witness_PlaneWritePlacesSample : Running (busyAt 32772) ∧ 1943 < 1944 ∧ 2591 < 2592
    ∧ 0 % 2 = 0 ∧ 2591 % 2 = 1 ∧ 1943 % 2 = 1 ∧ 2590 % 2 = 0 ∧ 2 < 3 :=
  ⟨running_busyAt _, by decide⟩

theorem witness_FinishSetsDone : Running (busyAt 6404096) ∧ (busyAt 6404096).off.toNat = 6404096 :=
  ⟨running_busyAt _, rfl⟩

theorem witness_NewDecodeIsNotOpen : ready.status ≠ .busy ∧ Running (busyAt 6404096)
    ∧ (busyAt 6404096).off.toNat = 6404096 := ⟨by decide, running_busyAt _, rfl⟩

theorem witness_host_writes : State.reset.status ≠ .busy ∧ ready.status ≠ .busy := by decide

/-- A BUSY block; the same after the host has written; and a block at rest whose planes are open. -/
theorem witness_HostWriteWhileBusyOpensOutcome : (busyAt 1000).status = .busy
    ∧ exec (.lenWrite 5) (busyAt 1000) = .next { busyAt 1000 with len := 5, outcomeOpen := true, planeOpen := true }
    ∧ ({ busyAt 1000 with outcomeOpen := true, planeOpen := true } : State).status = .busy
    ∧ ({ ready with status := .done, planeOpen := true } : State).planeOpen = true ∧ 2 < 3 ∧ 1943 < 1944 ∧ 2591 < 2592 :=
  ⟨rfl, rfl, rfl, by decide⟩

/-- One state for each value of STATUS and of CAUSE. -/
theorem witness_RegisterReadsReturnRegisters : State.reset.status = .idle ∧ (busyAt 0).status = .busy
    ∧ ({ ready with status := .done } : State).status = .done ∧ ({ ready with status := .error } : State).status = .error
    ∧ State.reset.cause = .none ∧ [Cause.shortBuffer, .badMarker, .badFraming].map
        (fun c => ({ ready with cause := c } : State).cause) = [.shortBuffer, .badMarker, .badFraming]
    ∧ (busyAt 0).outcomeOpen = false ∧ (busyAt 0).status ≠ .error := by decide

theorem witness_inv_reads : MachineInv (busyAt 0) ∧ (busyAt 0).status ≠ .error := ⟨inv_busyAt_0, by decide⟩

/-- A word that is there, one that is not, and a plane that does not exist. -/
theorem witness_PlaneReadReturnsWord :
    readPlane Geometry.bfu [(10077697, 209)] 2 0 1 = some 209 ∧ readPlane Geometry.bfu [] 2 0 1 = none
    ∧ ready.status ≠ .busy ∧ ready.planeOpen = false ∧ ¬ (3 < 3 ∧ 0 < 1944 ∧ 0 < 2592)
    ∧ ¬ (0 < 3 ∧ 1944 < 1944 ∧ 0 < 2592) ∧ ¬ (0 < 3 ∧ 0 < 1944 ∧ 2592 < 2592) := by decide

/-- DONE and IDLE under the invariant. -/
theorem witness_PlaneReadReturnsWord_done :
    ∃ m, MachineInv (finish (atEnd m)) ∧ (finish (atEnd m)).status = .done ∧ (finish (atEnd m)).planeOpen = false :=
  ⟨_, inv_done holds_result, rfl, rfl⟩

theorem witness_PlaneReadReturnsWord_idle : MachineInv ready ∧ ready.status = .idle ∧ ready.outcomeOpen = false :=
  ⟨{ memory := test_memory_wf.1
     planes := planeMem_wf_nil
     opened := fun h => by cases h
     cause := fun _ => by decide
     framing := fun _ h => by cases h
     idle := fun _ _ => ⟨rfl, rfl⟩
     busy := fun _ h => by cases h
     written := fun _ h => by cases h
     done := fun _ h => by cases h }, rfl, rfl⟩

/-- BUSY with planes that are not open, and open planes when the decode has ended. -/
theorem witness_PlaneReadWhileBusyIsFree : (busyAt 1000).status = .busy ∧ (busyAt 1000).planeOpen = false
    ∧ ({ ready with status := .done, planeOpen := true } : State).status ≠ .busy
    ∧ ({ ready with status := .done, planeOpen := true } : State).planeOpen = true
    ∧ 2 < 3 ∧ 1943 < 1944 ∧ 2591 < 2592 := by decide

theorem witness_LevelOutputsFollowStatus :
    (∃ t, exec .lenRead { ready with status := .done } = .next t
      ∧ doneOutput { ready with status := .done } = true ∧ doneOutput t = true) ∧
    (∃ t, exec .step { ready with status := .error } = .next t
      ∧ errorOutput { ready with status := .error } = true ∧ errorOutput t = true) := ⟨⟨_, rfl, rfl, rfl⟩, _, rfl, rfl, rfl⟩

/-- RESET of a DONE block, START, FINISH and a wrong marker byte each change STATUS. -/
theorem witness_StatusTransitions : ready.outcomeOpen = false ∧ (busyAt 6404096).outcomeOpen = false
    ∧ after State.status (exec .reset { ready with status := .done }) = some .idle
    ∧ after State.status (exec .start ready) = some .busy
    ∧ after State.status (exec .frameExtract State.reset) = some .error
    ∧ after State.status (exec .finish (busyAt 6404096)) = some .done
    ∧ after State.status (exec .step (busyWith 0 [])) = some .error := ⟨rfl, rfl, rfl, by decide⟩

theorem witness_ErrorPersists : exec .step { ready with status := .error } = .next { ready with status := .error } := rfl

theorem witness_BlockNeverWritesInput : exec .headerSkip (busyAt 4) = .next (busyAt 5) := rfl

theorem witness_PlaneChangesOnlyByBlock : exec .step ready = .next ready ∧ exec .headerSkip (busyAt 4) = .next (busyAt 5) :=
  ⟨rfl, rfl⟩

theorem witness_HiddenRegistersFrame : exec .framingCheck (busyAt 32768) = .next (busyAt 32768) := rfl

theorem witness_ValueOperationsHaveNoSideEffect :
    exec .lenRead ready = .next { ready with result := .len 6404196 } := rfl

theorem witness_BlockOperationsNeedBusy : ready.status ≠ .busy := by decide

end Sys2Proof.Tests
end

section
/-! PROOFS. Family 40, the frame unpacker (R110 to R113, R117, R118). -/

namespace Sys2Proof.Machine

variable {s t : State}

/-! ## Kept bytes (R117) -/

/-- ROW_FRAME sends the byte at A(r, g, k) to DATA_LATCH for a lane of 0..3 and to GROUP_EMIT for lane 4. -/
theorem rowOperation_keptOffset {r g k : Nat} (hr : r < 1944) (hg : g < 648) (hk : k < 5) :
    rowOperation Geometry.bfu (keptOffset Geometry.bfu r g k) = if k < 4 then .dataLatch else .groupEmit := by
  rw [rowOperation, rowAt_keptOffset r hg hk, bcolAt_keptOffset r hg hk, bfu_rowsKept, bfu_rowBytesKept,
    if_neg (by omega), if_neg (by omega), show (5 * g + k) % 5 = k by omega]

/-- Only bytes of a kept row and a kept byte column go to DATA_LATCH or GROUP_EMIT (R113). -/
theorem kept_of_rowOperation {off : Nat}
    (h : rowOperation Geometry.bfu off = .dataLatch ∨ rowOperation Geometry.bfu off = .groupEmit) :
    rowAt Geometry.bfu off < 1944 ∧ bcolAt Geometry.bfu off < 3240 := by
  simp only [rowOperation, bfu_rowsKept, bfu_rowBytesKept] at h
  split at h
  · simp at h
  · next hrow =>
    split at h
    · simp at h
    · next hcol => exact ⟨by omega, by omega⟩

/-- Settles O4, from the positions of A(r, g, k) and, for the image, from the tests of ROW_FRAME. -/
theorem keptBytesClosedForm : Obligations.KeptBytesClosedForm := by
  unfold Obligations.KeptBytesClosedForm
  simp only [← keptOffset_eq]
  refine ⟨⟨by decide, keptOffset_eq 0 0 0, keptOffset_eq 1943 647 4⟩, ?_, ?_, ?_⟩
  · intro r g k hr hg hk
    have hle : keptOffset Geometry.bfu r g k ≤ 6377959 := by
      rw [keptOffset_eq]
      omega
    exact ⟨hle, rowAt_keptOffset r hg hk, groupAt_keptOffset r hg hk, laneAt_keptOffset r hg hk,
      rowOperation_keptOffset hr hg hk⟩
  · intro r g k r' g' k' _ hg hk _ hg' hk' h
    exact keptOffset_injective hg hk hg' hk' h
  · intro off hoff _ h
    obtain ⟨hrow, hcol⟩ := kept_of_rowOperation h
    have hgroup : groupAt Geometry.bfu off < 648 := Nat.div_lt_of_lt_mul hcol
    exact ⟨_, _, _, hrow, hgroup, Nat.mod_lt _ (by decide), off_eq_keptOffset hoff⟩

/-! ## Padding (R118) -/

/-- The first wrong marker byte depends on the four marker bytes only (R192). -/
theorem firstMismatch_congr {m n : Memory} {a b : Nat} (h : ∀ i, i < 4 → readIn m (a + i) = readIn n (b + i)) :
    firstMismatch m a = firstMismatch n b := by
  simp only [firstMismatch, List.find?_cons, List.find?_nil, h 0 (by omega), h 1 (by omega), h 2 (by omega), h 3 (by omega)]

/-- A word of the result depends on the kept bytes only (R135, R154). -/
theorem outputWord_congr {m n : Memory} {a b : Nat}
    (h : ∀ r g k, r < 1944 → g < 648 → k < 5 →
      readIn m (a + keptOffset Geometry.bfu r g k) = readIn n (b + keptOffset Geometry.bfu r g k))
    (p : Nat) {r c : Nat} (hr : r < 1944) (hc : c < 2592) :
    outputWord Geometry.bfu m a p r c = outputWord Geometry.bfu n b p r c := by
  rw [outputWord, outputWord, sampleAt, sampleAt, h r (c / 4) (c % 4) hr (by omega) (by omega),
    h r (c / 4) 4 hr (by omega) (by omega)]

/-- The three planes of the result depend on the kept bytes only. -/
theorem outputPlanes_congr {m n : Memory} {a b : Nat}
    (h : ∀ r g k, r < 1944 → g < 648 → k < 5 →
      readIn m (a + keptOffset Geometry.bfu r g k) = readIn n (b + keptOffset Geometry.bfu r g k)) :
    outputPlanes Geometry.bfu m a = outputPlanes Geometry.bfu n b :=
  planeMem_ext (outputPlanes_wf m a) (outputPlanes_wf n b) fun p r c hp hr hc => by
    rw [readPlane_outputPlanes m a hp hr hc, readPlane_outputPlanes n b hp hr hc, outputWord_congr h p hr hc]

/-- A DECODE that does not find the block BUSY ends as the closed form says (R171). -/
theorem eq_transact_of_decode (hb : s.status ≠ .busy) (h : exec .decode s = .next t) : t = transact Geometry.bfu s := by
  rcases execDecode_cases h with ⟨_, e⟩ | ⟨hbusy, _⟩
  · exact e
  · exact absurd hbusy hb

/-- The closed form of a decode agrees on states that give it the same input, in each of its three outcomes (R171). -/
theorem transact_congr (h : SameDecodeInput s t) :
    (transact Geometry.bfu s).status = (transact Geometry.bfu t).status ∧
    (transact Geometry.bfu s).cause = (transact Geometry.bfu t).cause ∧
    ((transact Geometry.bfu s).status = .done → (transact Geometry.bfu s).plane = (transact Geometry.bfu t).plane) := by
  obtain ⟨hlen, hmarker, hkept⟩ := h
  by_cases hs : s.len.toNat < 6404096
  · rw [transact_short hs, transact_short (hlen ▸ hs)]
    simp
  · have hs' : 6404096 ≤ s.len.toNat := by omega
    have ht' : 6404096 ≤ t.len.toNat := hlen ▸ hs'
    have hfirst := firstMismatch_congr hmarker
    have hplanes := outputPlanes_congr hkept
    cases hm : firstMismatch s.inp (s.len.toNat - 6404096) with
    | some i =>
      rw [transact_badMarker hs' hm, transact_badMarker ht' (hfirst ▸ hm)]
      simp
    | none =>
      rw [transact_done hs' hm, transact_done ht' (hfirst ▸ hm)]
      simp [hplanes]

/-- Settles O18: both decodes are the closed form, which reads the marker bytes and the kept bytes only. -/
theorem paddingIsDiscarded : Obligations.PaddingIsDiscarded := by
  unfold Obligations.PaddingIsDiscarded
  intro s t s' t' hs ht hin hs' ht'
  rw [eq_transact_of_decode hs hs', eq_transact_of_decode ht ht']
  exact transact_congr hin

/-! ## ROW_FRAME (R113) -/

/-- ROW_FRAME in the data area of a running decode: its row's operation works on the byte at `base + off`, then `off`
advances (R113, R114). -/
theorem exec_rowFrame (hrun : Running s) (hlow : 32768 ≤ s.off.toNat) (hhigh : s.off.toNat < 6404096)
    (hlen : s.base.toNat + s.off.toNat < s.len.toNat) :
    exec .rowFrame s
      = .next (advance (rowBody Geometry.bfu (readIn s.inp (s.base.toNat + s.off.toNat)) s)) := by
  have hsel : inDataArea s = true := by simp [inDataArea, hlow, hhigh]
  rw [← rowFrame_bfu]
  exact (blockOperation_eq hrun.1 hrun.2 hsel).trans (withCurrentByte_eq hlen _)

section
variable {G : Geometry} {b : Byte}

/-- ROW_DROP: a byte of a row that is not kept is skipped, whatever its byte column. -/
theorem rowBody_of_row_dropped (hrow : G.rowsKept ≤ rowAt G s.off.toNat) : rowBody G b s = s := if_pos hrow

/-- ROW_TRIM: a byte past the kept ones of a kept row is skipped. -/
theorem rowBody_of_column_trimmed (hrow : rowAt G s.off.toNat < G.rowsKept)
    (hcol : G.rowBytesKept ≤ bcolAt G s.off.toNat) : rowBody G b s = s := by
  rw [rowBody, if_neg (by omega), if_pos hcol]

/-- DATA_LATCH at a kept byte of lane 0..3. -/
theorem rowBody_of_data_lane (hrow : rowAt G s.off.toNat < G.rowsKept) (hcol : bcolAt G s.off.toNat < G.rowBytesKept)
    (hlane : bcolAt G s.off.toNat % 5 < 4) : rowBody G b s = latchByte G b s := by
  rw [rowBody, if_neg (by omega), if_neg (by omega), if_pos hlane]

/-- GROUP_EMIT at a kept byte of lane 4. -/
theorem rowBody_of_packing_lane (hrow : rowAt G s.off.toNat < G.rowsKept)
    (hcol : bcolAt G s.off.toNat < G.rowBytesKept) (hlane : bcolAt G s.off.toNat % 5 = 4) :
    rowBody G b s = emitGroup G b s := by
  rw [rowBody, if_neg (by omega), if_neg (by omega), if_neg (by omega)]

/-- ROW_FRAME at a packing byte changes `off` and PLANE only. Stated for every geometry: at the hardware's numbers the
kernel would evaluate the row and the group. -/
theorem advance_emitGroup_frame :
    advance (emitGroup G b s) = { s with off := s.off + 1, plane := (advance (emitGroup G b s)).plane } := rfl

end

/-- The plane words after GROUP_EMIT: the group's four samples, 4 D[k] plus the lane's pair of the packing byte, in the
selected planes with zero in the others, and every other word as before (R131, R133). -/
theorem readPlane_emitGroup (pk : Byte) (hrow : rowAt Geometry.bfu s.off.toNat < 1944)
    (hg : groupAt Geometry.bfu s.off.toNat < 648) {p r c : Nat} (hp : p < 3) (hr : r < 1944) (hc : c < 2592) :
    readPlane Geometry.bfu (emitGroup Geometry.bfu pk s).plane p r c
      = if r = rowAt Geometry.bfu s.off.toNat ∧ c / 4 = groupAt Geometry.bfu s.off.toNat then
          some (if p = (sel r c).index then sampleValue (s.held.get (c % 4)) pk (c % 4) else 0)
        else readPlane Geometry.bfu s.plane p r c := by
  rw [emitGroup_plane, readPlane_emitLanes _ _ _ hp hrow hg hr hc, unpackPair_widenByte _ _ (Nat.mod_lt c (by decide))]

/-- Settles O26: one clause for each of the four operations ROW_FRAME dispatches to, the row test first. -/
theorem rowFrameClassifiesByte : Obligations.RowFrameClassifiesByte := by
  unfold Obligations.RowFrameClassifiesByte
  intro s hrun hlow hhigh hlen row bcol hrow hbcol b hb
  have hrow' : rowAt Geometry.bfu s.off.toNat = row := by rw [hrow, rowAt, bfu_headerBytes, bfu_rowStride]
  have hbcol' : bcolAt Geometry.bfu s.off.toNat = bcol := by rw [hbcol, bcolAt, bfu_headerBytes, bfu_rowStride]
  rw [exec_rowFrame hrun hlow hhigh hlen, ← hb, ← hrow', ← hbcol']
  refine ⟨fun h => ?_, fun h1 h2 => ?_, fun h1 h2 h3 => ?_, fun h1 h2 h3 => ?_⟩
  · rw [rowBody_of_row_dropped h, advance]
  · rw [rowBody_of_column_trimmed h1 h2, advance]
  · rw [rowBody_of_data_lane h1 h2 h3, advance, latchByte, laneAt]
  · rw [rowBody_of_packing_lane h1 h2 h3]
    have hgroup : groupAt Geometry.bfu s.off.toNat < 648 := Nat.div_lt_of_lt_mul h2
    refine ⟨_, rfl, advance_emitGroup_frame, fun p r c hp hr hc => ?_⟩
    rw [advance_plane, readPlane_emitGroup b h1 hgroup hp hr hc, groupAt]

/-! ## FRAME_EXTRACT, MARKER_CHECK and HEADER_SKIP (R110 to R112) -/

/-- FRAME_EXTRACT outside BUSY (R110). -/
theorem exec_frameExtract (hb : s.status ≠ .busy) :
    exec .frameExtract s = .next (frameExtract Geometry.bfu s) := if_neg hb

/-- Settles O23: the comparison of R110 first, then the subtraction, which therefore does not underflow. -/
theorem frameExtractLocatesFrame : Obligations.FrameExtractLocatesFrame := by
  unfold Obligations.FrameExtractLocatesFrame
  intro s hb
  rw [exec_frameExtract hb, frameExtract]
  refine ⟨fun hlen => ?_, fun hlen => ?_⟩
  · have hshort : isShort Geometry.bfu s = true := by simpa [isShort] using hlen
    rw [if_pos hshort, raise]
  · have hlong : ¬ isShort Geometry.bfu s = true := by simpa [isShort] using hlen
    rw [if_neg hlong]
    refine ⟨_, rfl, rfl, ?_⟩
    rw [latchBase_base_toNat hlen]
    omega

/-- MARKER_CHECK at off in 0..3 of a running decode works on the byte at `base + off` (R111). -/
theorem exec_markerCheck (hrun : Running s) (hoff : s.off.toNat < 4)
    (hlen : s.base.toNat + s.off.toNat < s.len.toNat) :
    exec .markerCheck s = .next (markerCheck (readIn s.inp (s.base.toNat + s.off.toNat)) s) :=
  (blockOperation_eq hrun.1 hrun.2 (decide_eq_true hoff)).trans (withCurrentByte_eq hlen _)

/-- Settles O24: the two outcomes of MARKER_CHECK, by whether the byte is the marker's. -/
theorem markerCheckComparesByte : Obligations.MarkerCheckComparesByte := by
  unfold Obligations.MarkerCheckComparesByte
  intro s hrun hoff hlen b hb
  have hmarker : markerByte s.off.toNat = b := by
    rw [markerByte, marker, List.getD_eq_getElem?_getD, hb, Option.getD_some]
  rw [exec_markerCheck hrun hoff hlen, markerCheck, hmarker]
  refine ⟨fun heq => ?_, fun hne => ?_⟩
  · rw [if_pos heq, advance]
  · rw [if_neg hne, raise]

/-- Settles O25: HEADER_SKIP reads no byte, so no bound on `base + off` is needed. -/
theorem headerSkipAdvancesOnly : Obligations.HeaderSkipAdvancesOnly := by
  unfold Obligations.HeaderSkipAdvancesOnly
  intro s hrun hlow hhigh
  have hsel : (decide (4 ≤ s.off.toNat) && decide (s.off.toNat < Geometry.bfu.headerBytes)) = true := by
    rw [bfu_headerBytes]
    simp only [Bool.and_eq_true, decide_eq_true_eq]
    omega
  exact blockOperation_eq hrun.1 hrun.2 hsel

end Sys2Proof.Machine
end

section
/-! PROOFS. Family 41, the 10-bit sub-byte sample extractor (R130 to R136). -/

namespace Sys2Proof.Machine

variable {s : State}

/-! ## DATA_LATCH and GROUP_EMIT (R130, R131) -/

/-- Every kept byte is in the data area (R117). -/
theorem inDataArea_of_off_eq_keptOffset {r g k : Nat} (hr : r < 1944) (hg : g < 648) (hk : k < 5)
    (hoff : s.off.toNat = keptOffset Geometry.bfu r g k) : inDataArea s = true := by
  rw [keptOffset_eq] at hoff
  simp only [inDataArea, bfu_headerBytes, bfu_frameBytes, Bool.and_eq_true, decide_eq_true_eq]
  omega

/-- DATA_LATCH at a data byte of a running decode latches the byte at `base + off` (R130). -/
theorem exec_dataLatch {r g k : Nat} (hrun : Running s) (hr : r < 1944) (hg : g < 648) (hk : k < 4)
    (hoff : s.off.toNat = keptOffset Geometry.bfu r g k) (hlen : s.base.toNat + s.off.toNat < s.len.toNat) :
    exec .dataLatch s
      = .next (latchByte Geometry.bfu (readIn s.inp (s.base.toNat + s.off.toNat)) s) := by
  have harea := inDataArea_of_off_eq_keptOffset hr hg (by omega) hoff
  have hop : rowOperation Geometry.bfu s.off.toNat = .dataLatch := by
    rw [hoff, rowOperation_keptOffset hr hg (by omega), if_pos hk]
  exact (blockOperation_eq hrun.1 hrun.2 (by simp [harea, hop])).trans (withCurrentByte_eq hlen _)

/-- GROUP_EMIT at a packing byte of a running decode emits the group with the byte at `base + off` (R131). -/
theorem exec_groupEmit {r g : Nat} (hrun : Running s) (hr : r < 1944) (hg : g < 648)
    (hoff : s.off.toNat = keptOffset Geometry.bfu r g 4) (hlen : s.base.toNat + s.off.toNat < s.len.toNat) :
    exec .groupEmit s
      = .next (emitGroup Geometry.bfu (readIn s.inp (s.base.toNat + s.off.toNat)) s) := by
  have harea := inDataArea_of_off_eq_keptOffset hr hg (by decide) hoff
  have hop : rowOperation Geometry.bfu s.off.toNat = .groupEmit := by
    rw [hoff, rowOperation_keptOffset hr hg (by decide), if_neg (by decide)]
  exact (blockOperation_eq hrun.1 hrun.2 (by simp [harea, hop])).trans (withCurrentByte_eq hlen _)

section
variable {G : Geometry} {b : Byte}

/-! The frames of the two operations are stated for every geometry: at the hardware's numbers the kernel would evaluate
the lane, the row and the group. -/

theorem latchByte_frame : latchByte G b s = { s with held := (latchByte G b s).held } := rfl

theorem emitGroup_frame : emitGroup G b s = { s with plane := (emitGroup G b s).plane } := rfl

end

/-- Settles O30: the lane of `off` is k, and writing D[k] leaves the other three registers. -/
theorem dataLatchHoldsByte : Obligations.DataLatchHoldsByte := by
  unfold Obligations.DataLatchHoldsByte
  simp only [← keptOffset_eq]
  intro s r g k hrun hr hg hk hoff hlen
  have hlane : laneAt Geometry.bfu s.off.toNat = k := by rw [hoff, laneAt_keptOffset r hg (by omega)]
  refine ⟨_, exec_dataLatch hrun hr hg hk hoff hlen, latchByte_frame, ?_, fun j hj hne => ?_⟩
  · rw [latchByte_held, hlane, Held.get_set _ _ hk hk, if_pos rfl]
  · rw [latchByte_held, hlane, Held.get_set _ _ hk hj, if_neg hne]

/-- The plane words after GROUP_EMIT at the packing byte of group g of kept row `row` (R131). -/
theorem readPlane_emitGroup_of_off {row g : Nat} (pk : Byte) (hrow : row < 1944) (hg : g < 648)
    (hoff : s.off.toNat = keptOffset Geometry.bfu row g 4) {p r c : Nat} (hp : p < 3) (hr : r < 1944) (hc : c < 2592) :
    readPlane Geometry.bfu (emitGroup Geometry.bfu pk s).plane p r c
      = if r = row ∧ c / 4 = g then
          some (if p = (sel r c).index then sampleValue (s.held.get (c % 4)) pk (c % 4) else 0)
        else readPlane Geometry.bfu s.plane p r c := by
  have hrow' : rowAt Geometry.bfu s.off.toNat = row := by rw [hoff, rowAt_keptOffset row hg (by decide)]
  have hgroup : groupAt Geometry.bfu s.off.toNat = g := by rw [hoff, groupAt_keptOffset row hg (by decide)]
  rw [readPlane_emitGroup pk (hrow' ▸ hrow) (hgroup ▸ hg) hp hr hc, hrow', hgroup]

/-- Settles O31: the words after GROUP_EMIT, read at the group's four columns and anywhere else. -/
theorem groupEmitWritesTwelveWords : Obligations.GroupEmitWritesTwelveWords := by
  unfold Obligations.GroupEmitWritesTwelveWords
  simp only [← keptOffset_eq]
  intro s row g hrun hr hg hoff hlen
  refine ⟨_, exec_groupEmit hrun hr hg hoff hlen, emitGroup_frame, fun k p hk hp => ?_, ?_⟩
  · have hcol : (4 * g + k) / 4 = g := by omega
    have hlane : (4 * g + k) % 4 = k := by omega
    have hread := readPlane_emitGroup_of_off (readIn s.inp (s.base.toNat + s.off.toNat)) hr hg hoff hp hr
      (groupColumn_lt hg hk)
    refine ⟨_, hread.trans (if_pos ⟨rfl, hcol⟩), ?_⟩
    rw [hlane, apply_ite BitVec.toNat, sampleValue_toNat, BitVec.ofNat_eq_ofNat, BitVec.toNat_zero]
  · intro p r c hp hr' hc hother
    rw [readPlane_emitGroup_of_off _ hr hg hoff hp hr' hc, if_neg hother]

/-! ## The pure operations (R132 to R134) -/

/-- WIDEN returns the widened byte (R132). -/
theorem exec_widen (b : Byte) (s : State) :
    exec (.widen b) s = .next { s with result := .sample (widenByte b) } := rfl

/-- UNPACK_LOW at a lane of 0..3 returns the source's form (R133). -/
theorem exec_unpackLow (wk w4 : Sample) {k : Nat} (s : State) (hk : k < 4) :
    exec (.unpackLow wk w4 k) s = .next { s with result := .sample (unpackPair wk w4 k) } := if_pos hk

/-- PACK_REMOVE at a lane of a group returns the lane's column, if it has one (R134). -/
theorem exec_packRemove {g k : Nat} (s : State) (hg : g < 648) (hk : k < 5) :
    exec (.packRemove g k) s = .next { s with result := .column (sampleColumn g k) } := if_pos ⟨hg, hk⟩

/-- Settles O32: a byte is at most 255, so that four times it fits 10 bits. -/
theorem widenIsTimesFour : Obligations.WidenIsTimesFour := by
  unfold Obligations.WidenIsTimesFour
  intro b s
  have hb := b.isLt
  have hw := widenByte_toNat b
  exact ⟨_, exec_widen b s, hw, by omega, by omega⟩

/-- Settles O33: the source's form by definition, the arithmetic form from the agreement of the two on widened bytes. -/
theorem unpackLowBothForms : Obligations.UnpackLowBothForms := by
  unfold Obligations.UnpackLowBothForms
  refine ⟨fun wk w4 k s hk => ?_, fun b p k s hk => ?_⟩
  · rw [exec_unpackLow wk w4 s hk, unpackPair]
  · refine ⟨_, exec_unpackLow _ _ s hk, ?_⟩
    rw [unpackPair_widenByte b p hk, sampleValue_toNat]

/-- Settles O34: column c comes from group c div 4 and lane c mod 4 only. -/
theorem packRemoveRenumbers : Obligations.PackRemoveRenumbers := by
  unfold Obligations.PackRemoveRenumbers
  refine ⟨fun g k s hg hk => ?_, fun g s hg => ?_, fun c hc => ?_⟩
  · rw [exec_packRemove s hg (by omega), sampleColumn, if_pos hk]
  · rw [exec_packRemove s hg (by decide), sampleColumn, if_neg (by decide)]
  · exact ⟨c / 4, c % 4, by omega, by omega, by omega, fun g' k' _ _ => by omega⟩

/-! ## Packing (R136) -/

theorem lowPair_lt (p : Byte) (k : Nat) : lowPair p k < 4 := Nat.mod_lt _ (by decide)

theorem packHigh_toNat (v : Sample) : (packHigh v).toNat = v.toNat / 4 := by
  have hv := v.isLt
  rw [packHigh, BitVec.toNat_ofNat]
  omega

theorem packLow_toNat (v0 v1 v2 v3 : Sample) : (packLow v0 v1 v2 v3).toNat
    = 64 * (v0.toNat % 4) + 16 * (v1.toNat % 4) + 4 * (v2.toNat % 4) + v3.toNat % 4 := by
  rw [packLow, BitVec.toNat_ofNat]
  omega

/-- A lane unpacks to a sample exactly if its data byte is the sample's upper eight bits and its pair of the packing
byte the lower two. -/
theorem unpackPair_widenByte_eq_iff (b p : Byte) {k : Nat} (v : Sample) (hk : k < 4) :
    unpackPair (widenByte b) (widenByte p) k = v ↔ b = packHigh v ∧ lowPair p k = v.toNat % 4 := by
  have hlow := lowPair_lt p k
  rw [unpackPair_widenByte b p hk, ← BitVec.toNat_inj, ← BitVec.toNat_inj, packHigh_toNat, sampleValue_toNat,
    ← lowPair]
  omega

/-- A byte packs four samples exactly if its four pairs are their lower two bits. -/
theorem eq_packLow_iff (p : Byte) (v0 v1 v2 v3 : Sample) :
    p = packLow v0 v1 v2 v3 ↔ lowPair p 0 = v0.toNat % 4 ∧ lowPair p 1 = v1.toNat % 4 ∧
      lowPair p 2 = v2.toNat % 4 ∧ lowPair p 3 = v3.toNat % 4 := by
  have hp := p.isLt
  rw [← BitVec.toNat_inj, packLow_toNat]
  simp only [lowPair, Nat.reduceMul, Nat.reduceSub, Nat.reducePow]
  omega

/-- Settles O35: lane by lane, and the four pairs make up the packing byte. -/
theorem packingIsBijective : Obligations.PackingIsBijective := by
  unfold Obligations.PackingIsBijective
  intro v0 v1 v2 v3 b0 b1 b2 b3 p
  rw [unpackPair_widenByte_eq_iff b0 p v0 (by decide), unpackPair_widenByte_eq_iff b1 p v1 (by decide),
    unpackPair_widenByte_eq_iff b2 p v2 (by decide), unpackPair_widenByte_eq_iff b3 p v3 (by decide), eq_packLow_iff]
  constructor
  · rintro ⟨⟨h0, l0⟩, ⟨h1, l1⟩, ⟨h2, l2⟩, h3, l3⟩
    exact ⟨h0, h1, h2, h3, l0, l1, l2, l3⟩
  · rintro ⟨h0, h1, h2, h3, l0, l1, l2, l3⟩
    exact ⟨⟨h0, l0⟩, ⟨h1, l1⟩, ⟨h2, l2⟩, h3, l3⟩

end Sys2Proof.Machine
end

section
/-! PROOFS. Family 42, the colour plane demultiplexer (R150 to R153), and how many coordinates each plane has (R156). -/

namespace Sys2Proof.Machine

variable {r c : Nat}

/-! ## The parity table (R151) -/

theorem sel_even_even (hr : r % 2 = 0) (hc : c % 2 = 0) : sel r c = .green := by
  rw [sel, parityCode, hr, hc]
  rfl

theorem sel_even_odd (hr : r % 2 = 0) (hc : c % 2 = 1) : sel r c = .blue := by
  rw [sel, parityCode, hr, hc]
  rfl

theorem sel_odd_even (hr : r % 2 = 1) (hc : c % 2 = 0) : sel r c = .red := by
  rw [sel, parityCode, hr, hc]
  rfl

theorem sel_odd_odd (hr : r % 2 = 1) (hc : c % 2 = 1) : sel r c = .green := by
  rw [sel, parityCode, hr, hc]
  rfl

/-- The four rows of the table are all there is: R151's function is total. -/
theorem sel_cases (r c : Nat) :
    (r % 2 = 0 ∧ c % 2 = 0 ∧ sel r c = .green) ∨ (r % 2 = 0 ∧ c % 2 = 1 ∧ sel r c = .blue) ∨
      (r % 2 = 1 ∧ c % 2 = 0 ∧ sel r c = .red) ∨ (r % 2 = 1 ∧ c % 2 = 1 ∧ sel r c = .green) := by
  rcases Nat.mod_two_eq_zero_or_one r with hr | hr <;> rcases Nat.mod_two_eq_zero_or_one c with hc | hc
  · exact .inl ⟨hr, hc, sel_even_even hr hc⟩
  · exact .inr (.inl ⟨hr, hc, sel_even_odd hr hc⟩)
  · exact .inr (.inr (.inl ⟨hr, hc, sel_odd_even hr hc⟩))
  · exact .inr (.inr (.inr ⟨hr, hc, sel_odd_odd hr hc⟩))

theorem sel_eq_red_iff : sel r c = .red ↔ r % 2 = 1 ∧ c % 2 = 0 := by
  rcases sel_cases r c with h | h | h | h <;> simp [h]

theorem sel_eq_blue_iff : sel r c = .blue ↔ r % 2 = 0 ∧ c % 2 = 1 := by
  rcases sel_cases r c with h | h | h | h <;> simp [h]

theorem sel_eq_green_iff : sel r c = .green ↔ r % 2 = 0 ∧ c % 2 = 0 ∨ r % 2 = 1 ∧ c % 2 = 1 := by
  rcases sel_cases r c with h | h | h | h <;> simp [h]

/-- Settles O37: each row answers the plane of its parity code, and SEL is the plane of the coordinate's code. -/
theorem planeSelectFollowsParity : Obligations.PlaneSelectFollowsParity := by
  unfold Obligations.PlaneSelectFollowsParity
  refine ⟨fun s => ⟨rfl, rfl, rfl, rfl⟩, fun r c => ⟨sel_even_even, sel_even_odd, sel_odd_even, sel_odd_odd⟩,
    ⟨rfl, rfl, rfl⟩, fun r c => ⟨fun hr hc => ?_, fun hr hc => ?_, fun hr hc => ?_, fun hr hc => ?_⟩⟩
  · rw [sel_even_even hr hc, Plane.index]
  · rw [sel_even_odd hr hc, Plane.index]
  · rw [sel_odd_even hr hc, Plane.index]
  · rw [sel_odd_odd hr hc, Plane.index]

/-! ## PLANE_WRITE (R153) -/

/-- PLANE_WRITE at a coordinate of the planes in a running decode changes PLANE only, by placing the sample. -/
theorem exec_planeWrite {s : State} (v : Sample) (hrun : Running s) (hr : r < 1944) (hc : c < 2592) :
    exec (.planeWrite r c v) s = .next (setPlane (placeSample Geometry.bfu s.plane r c v) s) := by
  have hcoord : isCoordinate Geometry.bfu r c = true := by simp [isCoordinate, hr, hc]
  exact (blockOperation_eq hrun.1 hrun.2 rfl).trans (if_pos hcoord)

/-- Settles O39: the words are those of placing a sample, and the selected plane's number is the parity table's. -/
theorem planeWritePlacesSample : Obligations.PlaneWritePlacesSample := by
  unfold Obligations.PlaneWritePlacesSample
  intro s r c v hrun hr hc
  refine ⟨_, exec_planeWrite v hrun hr hc, rfl, fun p r' c' hp hr' hc' => ?_, fun p hp => ?_⟩
  · rw [setPlane_plane, readPlane_placeSample s.plane v hp hr hc hr' hc']
    exact ite_congr rfl (fun ⟨hrow, hcol⟩ => by rw [hrow, hcol]) fun _ => rfl
  · obtain ⟨-, -, -, hindex⟩ := planeSelectFollowsParity
    obtain ⟨hee, heo, hoe, hoo⟩ := hindex r c
    rw [setPlane_plane, readPlane_placeSample s.plane v hp hr hc hr hc, if_pos ⟨rfl, rfl⟩]
    exact ⟨fun h h' => by rw [hee h h'], fun h h' => by rw [heo h h'], fun h h' => by rw [hoe h h'],
      fun h h' => by rw [hoo h h']⟩

/-! ## Population counts (R156) -/

/-- Half of the numbers below an even bound have a given parity. -/
theorem card_filter_mod_two (n : Nat) {a : Nat} (ha : a < 2) :
    ((Finset.range (2 * n)).filter (· % 2 = a)).card = n := by
  have hcount := Nat.count_modEq_card (2 * n) (r := 2) (by decide) a
  simpa [Nat.ModEq, Nat.count_eq_card_filter_range, Nat.mod_eq_of_lt ha] using hcount

/-- A quarter of the plane space has given parities of row and column. -/
theorem card_filter_parities {a b : Nat} (ha : a < 2) (hb : b < 2) :
    ((Finset.range 1944 ×ˢ Finset.range 2592).filter (fun x => x.1 % 2 = a ∧ x.2 % 2 = b)).card = 1259712 := by
  rw [Finset.filter_product (· % 2 = a) (· % 2 = b), Finset.card_product, card_filter_mod_two 972 ha,
    card_filter_mod_two 1296 hb]

/-- Settles O21: Red and Blue are selected on a quarter of the plane space each, Green on two disjoint quarters. -/
theorem populationCounts : Obligations.PopulationCounts := by
  unfold Obligations.PopulationCounts
  refine ⟨by decide, fun m base p r c hp => if_neg hp, ?_, ?_, ?_⟩
  · simp only [sel_eq_red_iff]
    exact card_filter_parities (by decide) (by decide)
  · simp only [sel_eq_blue_iff]
    exact card_filter_parities (by decide) (by decide)
  · simp only [sel_eq_green_iff]
    have hdisjoint : Disjoint
        ((Finset.range 1944 ×ˢ Finset.range 2592).filter (fun x => x.1 % 2 = 0 ∧ x.2 % 2 = 0))
        ((Finset.range 1944 ×ˢ Finset.range 2592).filter (fun x => x.1 % 2 = 1 ∧ x.2 % 2 = 1)) :=
      Finset.disjoint_filter.mpr fun x _ h h' => by omega
    rw [Finset.filter_or, Finset.card_union_of_disjoint hdisjoint, card_filter_parities (by decide) (by decide),
      card_filter_parities (by decide) (by decide)]

end Sys2Proof.Machine
end

section
/-! PROOFS. Family 43, the host operations and the sequencer (R170 to R183). -/

namespace Sys2Proof.Machine

variable {s t : State}

/-! ## The block's walk through its frame (R173, R183) -/

/-- A block whose `base` is where START latched it, with `off` not past the end of the frame (R23, R28): what
`MachineInv` says of a running decode. -/
def InFrame (s : State) : Prop := s.base.toNat + 6404096 = s.len.toNat ∧ s.off.toNat ≤ 6404096

theorem MachineInv.inFrame (hinv : MachineInv s) (hrun : Running s) : InFrame s := hinv.busy hrun.2 hrun.1

/-- FINISH is the running block's step at the end of the frame (R175). -/
theorem blockStep_of_off_eq_end (hrun : Running s) (hoff : s.off.toNat = 6404096) :
    blockStep Geometry.bfu s = .next (finish s) := by
  rw [blockStep, if_neg (by simp [hrun.2]), if_pos (by simpa using hoff)]

/-- Inside the frame a step of a running block completes: the byte it reads is below LEN (R173). -/
theorem blockStep_completes (hrun : Running s) (hframe : InFrame s) : ∃ t, blockStep Geometry.bfu s = .next t := by
  obtain ⟨hbase, hoff⟩ := hframe
  by_cases hend : s.off.toNat = 6404096
  · exact ⟨_, blockStep_of_off_eq_end hrun hend⟩
  · rw [blockStep, if_neg (by simp [hrun.2]), if_neg (by simpa using hend), withCurrentByte_eq (by omega)]
    split_ifs
    · exact ⟨_, rfl⟩
    · exact ⟨_, rfl⟩
    · exact ⟨_, rfl⟩

/-- A running block's step ends the decode, or, before the end of the frame, advances `off` with D and PLANE the only
other elements it may change. -/
theorem blockStep_ends_or_advances (hrun : Running s) (h : blockStep Geometry.bfu s = .next t) :
    t.status ≠ .busy ∨ s.off.toNat ≠ 6404096 ∧ ∃ d m, t = advance { s with held := d, plane := m } := by
  rcases blockStep_cases hrun.2 h with ⟨_, rfl⟩ | ⟨hend, _, hcase⟩
  · exact .inl (by simp)
  · have hend' : s.off.toNat ≠ 6404096 := by simpa using hend
    rcases hcase with ⟨_, rfl⟩ | ⟨_, _, rfl⟩ | ⟨_, _, rfl⟩
    · rcases markerCheck_cases (readIn s.inp (s.base.toNat + s.off.toNat)) s with ⟨_, e⟩ | ⟨_, e⟩
      · exact .inr ⟨hend', s.held, s.plane, e⟩
      · exact .inl (by simp [e])
    · exact .inr ⟨hend', s.held, s.plane, rfl⟩
    · obtain ⟨d, m, e, -⟩ := rowFrame_cases (readIn s.inp (s.base.toNat + s.off.toNat)) s
      exact .inr ⟨hend', d, m, e⟩

/-- With nothing presented, the machine's step is a BUSY block's own. -/
theorem step_eq_blockStep (hbusy : s.status = .busy) (hport : s.port = []) : step s = blockStep Geometry.bfu s :=
  (step_of_port_nil hport).trans (if_pos hbusy)

theorem run_succ_of_step (h : step s = .next t) (n : Nat) : run (n + 1) s = run n t := by
  rw [run, h]

/-- A running decode that has `k` steps to go, one for each byte left and FINISH, leaves BUSY within `k` steps, whatever
IN holds. -/
theorem run_leaves_busy (k : Nat) (hrun : Running s) (hframe : InFrame s) (hport : s.port = [])
    (hk : s.off.toNat + k = 6404097) : ∃ n t, n ≤ k ∧ run n s = .next t ∧ t.status ≠ .busy := by
  induction k generalizing s with
  | zero =>
    obtain ⟨-, hoff⟩ := hframe
    omega
  | succ k ih =>
    obtain ⟨t, ht⟩ := blockStep_completes hrun hframe
    have hstep : step s = .next t := (step_eq_blockStep hrun.1 hport).trans ht
    rcases blockStep_ends_or_advances hrun ht with hend | ⟨hne, d, m, rfl⟩
    · exact ⟨1, t, by omega, run_succ_of_step hstep 0, hend⟩
    · obtain ⟨hbase, hoff⟩ := hframe
      have hnext : (advance { s with held := d, plane := m }).off.toNat = s.off.toNat + 1 := advance_off_toNat hoff
      obtain ⟨n, u, hn, hu, hleft⟩ := ih (s := advance { s with held := d, plane := m }) hrun ⟨hbase, by omega⟩ hport
        (by omega)
      exact ⟨n + 1, u, by omega, (run_succ_of_step hstep n).trans hu, hleft⟩

/-- Settles O14: the walk from offset 0 has the most steps to go, 6,404,097. -/
theorem everyDecodeEnds : Obligations.EveryDecodeEnds := by
  unfold Obligations.EveryDecodeEnds
  intro s hinv hrun hport
  obtain ⟨hbase, hoff⟩ := hinv.inFrame hrun
  obtain ⟨n, t, hn, ht, hleft⟩ := run_leaves_busy (6404097 - s.off.toNat) hrun ⟨hbase, hoff⟩ hport (by omega)
  exact ⟨n, t, by omega, ht, hleft⟩

/-! ## START and FINISH (R170, R175) -/

/-- The comparison of R110 at the hardware's FRAME_BYTES. -/
theorem isShort_bfu_iff : isShort Geometry.bfu s = true ↔ s.len.toNat < 6404096 := by simp [isShort]

/-- START is ignored while BUSY. -/
theorem exec_start_of_busy (hb : s.status = .busy) : exec .start s = .next s :=
  congrArg Host.Outcome.next (if_pos hb)

/-- START of a short buffer traps (R110, R170). -/
theorem exec_start_of_short (hb : s.status ≠ .busy) (hlen : s.len.toNat < 6404096) :
    exec .start s = .next (raise .shortBuffer { s with outcomeOpen := false }) :=
  congrArg Host.Outcome.next ((if_neg hb).trans (if_pos (isShort_bfu_iff.mpr hlen)))

/-- An accepted START begins a decode (R110, R170). -/
theorem exec_start_of_long (hb : s.status ≠ .busy) (hlen : 6404096 ≤ s.len.toNat) :
    exec .start s = .next (enterBusy (latchBase Geometry.bfu s)) :=
  congrArg Host.Outcome.next ((if_neg hb).trans (if_neg (mt isShort_bfu_iff.mp (Nat.not_lt.mpr hlen))))

/-- Settles O22: the three outcomes of START, the test of BUSY first, then that of LEN. -/
theorem startBeginsOrTrapsOrIsIgnored : Obligations.StartBeginsOrTrapsOrIsIgnored := by
  unfold Obligations.StartBeginsOrTrapsOrIsIgnored
  refine fun s => ⟨exec_start_of_busy, fun hb hlen => ?_, fun hb hlen => ?_⟩
  · exact ⟨_, exec_start_of_short hb hlen, rfl⟩
  · refine ⟨_, exec_start_of_long hb hlen, rfl, ?_⟩
    rw [enterBusy_base, latchBase_base_toNat hlen]
    omega

/-- FINISH at the end of the frame of a running decode (R175). -/
theorem exec_finish (hrun : Running s) (hoff : s.off.toNat = 6404096) : exec .finish s = .next (finish s) :=
  blockOperation_eq hrun.1 hrun.2 (decide_eq_true hoff)

/-- Settles O40: FINISH writes STATUS and the model's own field `planeOpen` only. -/
theorem finishSetsDone : Obligations.FinishSetsDone := by
  unfold Obligations.FinishSetsDone
  exact fun s hrun hoff => ⟨_, exec_finish hrun hoff, rfl⟩

/-! ## The host's writes (R177, R179) -/

/-- Outside BUSY a write of LEN or IN is within the host's contract (R62). -/
theorem breakContract_of_not_busy (hb : s.status ≠ .busy) : breakContract s = s := if_neg hb

/-- LEN_WRITE outside BUSY (R177). -/
theorem exec_lenWrite (v : LenWord) (hb : s.status ≠ .busy) : exec (.lenWrite v) s = .next { s with len := v } := by
  rw [exec, execLenWrite, breakContract_of_not_busy hb]

/-- IN_WRITE outside BUSY (R179). -/
theorem exec_inWrite (a : LenWord) (b : Byte) (hb : s.status ≠ .busy) :
    exec (.inWrite a b) s = .next { s with inp := writeIn s.inp a.toNat b } := by
  rw [exec, execInWrite, breakContract_of_not_busy hb]

/-- Settles O42: the host's contract is kept, so that nothing but LEN changes. -/
theorem lenWriteSetsLen : Obligations.LenWriteSetsLen := by
  unfold Obligations.LenWriteSetsLen
  exact fun v s hb => exec_lenWrite v hb

/-- Settles O43: a read of IN after a write of it, at the written offset and at any other. -/
theorem inWriteStoresByte : Obligations.InWriteStoresByte := by
  unfold Obligations.InWriteStoresByte
  refine fun a b s hb => ⟨_, exec_inWrite a b hb, rfl, ?_, fun x hx => ?_⟩
  · rw [readIn_writeIn, if_pos rfl]
  · rw [readIn_writeIn, if_neg hx]

end Sys2Proof.Machine
end

section
/-! PROOFS. Family 70, RESET (R220, R221). -/

namespace Sys2Proof.Machine

/-- No word of a PLANE without entries holds a value, as RESET leaves it (R220). -/
@[simp] theorem readPlane_nil (G : Geometry) (p r c : Nat) : readPlane G [] p r c = none := rfl

/-- RESET acts in every state, BUSY included (R221). -/
theorem exec_reset (s : State) : exec .reset s = execReset s := rfl

/-- Settles O48: RESET's one outcome assigns the control state and the free registers, and leaves PLANE without
entries. -/
theorem resetRestoresControlState : Obligations.ResetRestoresControlState := by
  unfold Obligations.ResetRestoresControlState
  intro s
  rw [exec_reset, execReset]
  exact ⟨_, rfl, rfl, readPlane_nil Geometry.bfu⟩

end Sys2Proof.Machine
end

section
/-! PROOFS. Decoding and encoding (R80, R82, R89, R91). -/

namespace Sys2Proof

/-- A 10-bit word carried in two bytes is read back, and passes the check for a number above 1023. -/
theorem num2_bytes2_sample (v : Sample) :
    num2 (BitVec.ofNat 8 (v.toNat / 256)) (BitVec.ofNat 8 v.toNat) = v.toNat :=
  num2_bytes2 (Nat.lt_trans v.isLt (by decide))

theorem num4_bytes4_lenWord (v : LenWord) :
    num4 (BitVec.ofNat 8 (v.toNat / 16777216)) (BitVec.ofNat 8 (v.toNat / 65536)) (BitVec.ofNat 8 (v.toNat / 256))
      (BitVec.ofNat 8 v.toNat) = v.toNat := num4_bytes4 v.isLt

/-- The ranges R31 gives a coordinate of the planes. -/
theorem Machine.isCoordinate_bfu_iff {r c : Nat} :
    Machine.isCoordinate Geometry.bfu r c = true ↔ r < 1944 ∧ c < 2592 := by simp [Machine.isCoordinate]

/-- The bytes of an operation's operands carry them: the decoder's reading of the encoder's bytes, operation by
operation. Each operand's range is what makes its field of two bytes wide enough. -/
theorem decode_encode (i : Instr) (rest : List Byte) (hi : i.wellFormed = true) :
    decode (encode i ++ rest) = .op i rest := by
  cases i with
  | markerCheck | planeSelectGreenE | planeSelectBlue | planeSelectRed | planeSelectGreenO => rfl
  | widen b => exact decode_named .widen [b] rest
  | unpackLow wk w4 k =>
    simp only [Instr.wellFormed, Bool.and_eq_true, decide_eq_true_eq] at hi
    obtain ⟨-, hk⟩ := hi
    refine (decode_named .unpackLow _ rest).trans ?_
    simp only [operandsOf, bytes2, List.cons_append, List.nil_append, num2_bytes2_sample, wk.isLt, w4.isLt,
      num2_bytes2 (show k < 65536 by omega), and_self, if_true, BitVec.ofNat_toNat 10, BitVec.setWidth_eq]
  | packRemove g k =>
    simp only [Instr.wellFormed, bfu_groupsPerRow, Bool.and_eq_true, decide_eq_true_eq] at hi
    obtain ⟨hg, hk⟩ := hi
    refine (decode_named .packRemove _ rest).trans ?_
    simp only [operandsOf, bytes2, List.cons_append, List.nil_append, num2_bytes2 (show g < 65536 by omega),
      num2_bytes2 (show k < 65536 by omega)]
  | planeAlloc r c =>
    obtain ⟨hr, hc⟩ := Machine.isCoordinate_bfu_iff.mp hi
    refine (decode_named .planeAlloc _ rest).trans ?_
    simp only [operandsOf, bytes2, List.cons_append, List.nil_append, num2_bytes2 (show r < 65536 by omega),
      num2_bytes2 (show c < 65536 by omega)]
  | planeWrite r c v =>
    obtain ⟨hr, hc⟩ := Machine.isCoordinate_bfu_iff.mp hi
    refine (decode_named .planeWrite _ rest).trans ?_
    simp only [operandsOf, bytes2, List.cons_append, List.nil_append, num2_bytes2 (show r < 65536 by omega),
      num2_bytes2 (show c < 65536 by omega), num2_bytes2_sample, v.isLt, if_true, BitVec.ofNat_toNat 10,
      BitVec.setWidth_eq]
  | lenWrite v =>
    refine (decode_named .lenWrite _ rest).trans ?_
    simp only [operandsOf, bytes4, List.cons_append, List.nil_append, num4_bytes4_lenWord, BitVec.ofNat_toNat 32,
      BitVec.setWidth_eq]
  | inWrite a b =>
    refine (decode_named .inWrite _ rest).trans ?_
    simp only [operandsOf, bytes4, List.cons_append, List.nil_append, num4_bytes4_lenWord, BitVec.ofNat_toNat 32,
      BitVec.setWidth_eq]
  | planeRead p r c =>
    simp only [Instr.wellFormed, Bool.and_eq_true, decide_eq_true_eq, Machine.isCoordinate_bfu_iff] at hi
    obtain ⟨hp, hr, hc⟩ := hi
    refine (decode_named .planeRead _ rest).trans ?_
    simp only [operandsOf, bytes2, List.cons_append, List.nil_append, num2_bytes2 (show p < 65536 by omega),
      num2_bytes2 (show r < 65536 by omega), num2_bytes2 (show c < 65536 by omega)]
  | start | frameExtract | headerSkip | rowFrame | framingCheck | rowDrop | rowTrim | dataLatch | groupEmit | step
  | finish | decode | lenRead | statusRead | causeRead | reset => exact decode_named _ [] rest

/-- Settles O1: an operation selected by name decodes by its operands, the others by their own patterns. -/
theorem decodeOfEncode : Obligations.DecodeOfEncode := by
  unfold Obligations.DecodeOfEncode
  exact decode_encode

/-- Settles O2: the decoder run on the six words. -/
theorem specWordsDecode : Obligations.SpecWordsDecode := by
  unfold Obligations.SpecWordsDecode
  decide

end Sys2Proof
end

section
/-! PROOFS. What an operation can do, said once for all of them, and the statements over all operations: transitions of
STATUS, what changes IN, LEN, PLANE and the hidden registers, and the value operations (R20, R26, R31, R54, R62, R114,
R198). -/

namespace Sys2Proof.Machine

variable {i : Instr} {s t : State}

/-! ## The effects -/

/-- The next states an operation can answer, by what changes. STEP of a BUSY block is its block step and DECODE its own
case, since both are made of other operations; where an operation's new value is a free one or does not matter to a frame
it is named by a variable. -/
inductive Effect (s : State) : Instr → State → Prop where
  /-- Nothing of the spec's state: a returned value (log 3), a draw (log 8), or not even these. -/
  | silent {i : Instr} (v : Result) (d : Nat) : Effect s i { s with result := v, draws := d }
  /-- START of a short buffer (R110, R170). -/
  | startShort (hb : s.status ≠ .busy) :
      Effect s .start { s with status := .error, cause := .shortBuffer, outcomeOpen := false }
  /-- START that is accepted (R170). -/
  | startBegun (hb : s.status ≠ .busy) (hlen : 6404096 ≤ s.len.toNat) :
      Effect s .start { s with status := .busy, cause := .none, base := s.len - 6404096#32, off := 0,
                               outcomeOpen := false }
  /-- FRAME_EXTRACT of a short buffer (R110). -/
  | extractShort (hb : s.status ≠ .busy) : Effect s .frameExtract { s with status := .error, cause := .shortBuffer }
  /-- FRAME_EXTRACT that locates the frame (R110). -/
  | extractLocated (hb : s.status ≠ .busy) : Effect s .frameExtract { s with base := s.len - 6404096#32 }
  /-- An operation of the block in a decode whose outcome is open (log 10). -/
  | opened {i : Instr} (hi : i.presentable = false) (hb : s.status = .busy) (ho : s.outcomeOpen = true) :
      Effect s i (openStep s)
  /-- A right marker byte, or a byte of the header (R111, R112). -/
  | advanced {i : Instr} (hi : i = .markerCheck ∨ i = .headerSkip) (hb : s.status = .busy) : Effect s i (advance s)
  /-- A wrong marker byte (R111). -/
  | mismatched (hb : s.status = .busy) (hoff : s.off.toNat < 4) : Effect s .markerCheck (raise .badMarker s)
  /-- A byte of the data area (R113). -/
  | rowFramed (d : Held) (m : PlaneMem) (hb : s.status = .busy) :
      Effect s .rowFrame (advance { s with held := d, plane := m })
  /-- DATA_LATCH (R130). -/
  | latched (d : Held) (hb : s.status = .busy) : Effect s .dataLatch { s with held := d }
  /-- An operation that writes plane words (R131, R150, R153). -/
  | wrote {i : Instr} (hi : i = .groupEmit ∨ (∃ r c, i = .planeAlloc r c) ∨ ∃ r c v, i = .planeWrite r c v) (m : PlaneMem)
      (hb : s.status = .busy) : Effect s i { s with plane := m }
  /-- FINISH (R175). -/
  | finished (hb : s.status = .busy) (hoff : s.off.toNat = 6404096) : Effect s .finish (finish s)
  /-- LEN_WRITE (R177, R226). -/
  | lenWritten (v : LenWord) : Effect s (.lenWrite v) { breakContract s with len := v }
  /-- IN_WRITE (R179, R224). -/
  | inWritten (a : LenWord) (b : Byte) :
      Effect s (.inWrite a b) { breakContract s with inp := writeIn s.inp a.toNat b }
  /-- RESET (R220). -/
  | reset (b : LenWord) (h : Held) (d : Nat) :
      Effect s .reset { s with status := .idle, cause := .none, len := 0, base := b, off := 0, held := h, plane := [],
                               draws := d, outcomeOpen := false, planeOpen := false }
  /-- STEP of a BUSY block (R173). -/
  | stepped {t : State} (hb : s.status = .busy) (h : blockStep Geometry.bfu s = .next t) : Effect s .step t
  /-- DECODE (R171). -/
  | decoded {t : State} (h : exec .decode s = .next t) : Effect s .decode t

/-- An operation that answers the state it was given is silent. -/
theorem Effect.unchanged : Effect s i s := .silent s.result s.draws

/-- Every operation that completes has one of the effects: its own inversion lemma, constructor by constructor. -/
theorem exec_effect (h : exec i s = .next t) : Effect s i t := by
  cases i with
  | start =>
    obtain ⟨_, rfl⟩ | ⟨hb, _, rfl⟩ | ⟨hb, hlen, rfl⟩ := execStart_cases h
    · exact .unchanged
    · exact .startShort hb
    · exact .startBegun hb hlen
  | frameExtract =>
    obtain ⟨hb, ⟨_, rfl⟩ | ⟨_, rfl⟩⟩ := execFrameExtract_cases h
    · exact .extractShort hb
    · exact .extractLocated hb
  | markerCheck =>
    obtain ⟨hb, ⟨ho, rfl⟩ | ⟨_, hoff, rfl | rfl⟩⟩ := execMarkerCheck_cases h
    · exact .opened rfl hb ho
    · exact .advanced (.inl rfl) hb
    · exact .mismatched hb hoff
  | headerSkip =>
    obtain ⟨hb, ⟨ho, rfl⟩ | ⟨_, rfl⟩⟩ := execHeaderSkip_cases h
    · exact .opened rfl hb ho
    · exact .advanced (.inr rfl) hb
  | rowFrame =>
    obtain ⟨hb, ⟨ho, rfl⟩ | ⟨_, b, rfl⟩⟩ := execRowFrame_cases h
    · exact .opened rfl hb ho
    · obtain ⟨d, m, e, -⟩ := rowFrame_cases b s
      exact e ▸ .rowFramed d m hb
  | framingCheck =>
    obtain ⟨hb, ⟨ho, rfl⟩ | ⟨_, rfl⟩⟩ := execFramingCheck_cases h
    · exact .opened rfl hb ho
    · exact .unchanged
  | rowDrop =>
    obtain ⟨hb, ⟨ho, rfl⟩ | ⟨_, rfl⟩⟩ := execRowDrop_cases h
    · exact .opened rfl hb ho
    · exact .unchanged
  | rowTrim =>
    obtain ⟨hb, ⟨ho, rfl⟩ | ⟨_, rfl⟩⟩ := execRowTrim_cases h
    · exact .opened rfl hb ho
    · exact .unchanged
  | dataLatch =>
    obtain ⟨hb, ⟨ho, rfl⟩ | ⟨_, d, rfl⟩⟩ := execDataLatch_cases h
    · exact .opened rfl hb ho
    · exact .latched d hb
  | groupEmit =>
    obtain ⟨hb, ⟨ho, rfl⟩ | ⟨_, m, rfl⟩⟩ := execGroupEmit_cases h
    · exact .opened rfl hb ho
    · exact .wrote (.inl rfl) m hb
  | planeAlloc r c =>
    obtain ⟨hb, ⟨ho, rfl⟩ | ⟨_, m, rfl⟩⟩ := execPlaneAlloc_cases h
    · exact .opened rfl hb ho
    · exact .wrote (.inr (.inl ⟨r, c, rfl⟩)) m hb
  | planeWrite r c v =>
    obtain ⟨hb, ⟨ho, rfl⟩ | ⟨_, m, rfl⟩⟩ := execPlaneWrite_cases h
    · exact .opened rfl hb ho
    · exact .wrote (.inr (.inr ⟨r, c, v, rfl⟩)) m hb
  | finish =>
    obtain ⟨hb, ⟨ho, rfl⟩ | ⟨_, hoff, rfl⟩⟩ := execFinish_cases h
    · exact .opened rfl hb ho
    · exact .finished hb hoff
  | step =>
    obtain ⟨_, rfl⟩ | ⟨hb, h⟩ := execStep_cases h
    · exact .unchanged
    · exact .stepped hb h
  | decode => exact .decoded h
  | unpackLow wk w4 k => exact execUnpackLow_cases h ▸ .silent _ s.draws
  | packRemove g k => exact execPackRemove_cases h ▸ .silent _ s.draws
  | planeRead p r c => exact execPlaneRead_cases h ▸ .silent _ _
  | lenWrite v =>
    cases h
    exact .lenWritten v
  | inWrite a b =>
    cases h
    exact .inWritten a b
  | reset =>
    cases h
    exact .reset _ _ _
  | widen | planeSelectGreenE | planeSelectBlue | planeSelectRed | planeSelectGreenO | lenRead | statusRead | causeRead =>
    cases h
    exact .silent _ s.draws

/-! ## The two composite operations -/

/-- No step of the block writes LEN, `base` or IN, nor marks its decode open (R25, R28, R54). -/
theorem blockStep_frame (h : blockStep Geometry.bfu s = .next t) :
    t.len = s.len ∧ t.base = s.base ∧ t.inp = s.inp ∧ t.outcomeOpen = s.outcomeOpen := by
  obtain ⟨_, rfl⟩ | ⟨_, ⟨_, rfl⟩ | ⟨_, rfl⟩ | rfl | ⟨b, rfl⟩⟩ := blockStep_bfu_cases h
  · exact ⟨rfl, rfl, rfl, rfl⟩
  · exact ⟨rfl, rfl, rfl, rfl⟩
  · exact ⟨rfl, rfl, rfl, rfl⟩
  · exact ⟨rfl, rfl, rfl, rfl⟩
  · obtain ⟨d, m, e, -⟩ := rowFrame_cases b s
    rw [e]
    exact ⟨rfl, rfl, rfl, rfl⟩

/-- What a step of the block does to STATUS and CAUSE when its outcome is not open: nothing, FINISH, or the trap of a wrong
marker byte (R26). -/
theorem blockStep_status (h : blockStep Geometry.bfu s = .next t) (ho : s.outcomeOpen = false) :
    (t.status = s.status ∧ t.cause = s.cause) ∨
    (s.off.toNat = 6404096 ∧ t.status = .done ∧ t.cause = s.cause) ∨
    (s.off.toNat < 4 ∧ t.status = .error ∧ t.cause = .badMarker) := by
  obtain ⟨ho', _⟩ | ⟨_, ⟨hoff, rfl⟩ | ⟨hoff, rfl⟩ | rfl | ⟨b, rfl⟩⟩ := blockStep_bfu_cases h
  · simp [ho] at ho'
  · exact .inr (.inl ⟨hoff, rfl, rfl⟩)
  · exact .inr (.inr ⟨hoff, rfl, rfl⟩)
  · exact .inl ⟨rfl, rfl⟩
  · obtain ⟨d, m, e, -⟩ := rowFrame_cases b s
    rw [e]
    exact .inl ⟨rfl, rfl⟩

/-- The three outcomes of the closed form (R171), by LEN and by the first wrong marker byte. -/
theorem transact_cases (s : State) :
    (s.len.toNat < 6404096 ∧ transact Geometry.bfu s = raise .shortBuffer { s with outcomeOpen := false }) ∨
    (6404096 ≤ s.len.toNat ∧ ∃ j, firstMismatch s.inp (s.len.toNat - 6404096) = some j ∧
      transact Geometry.bfu s
        = { s with status := .error, cause := .badMarker, base := s.len - 6404096#32, off := BitVec.ofNat 23 j,
                   outcomeOpen := false }) ∨
    (6404096 ≤ s.len.toNat ∧ firstMismatch s.inp (s.len.toNat - 6404096) = none ∧
      transact Geometry.bfu s
        = { s with status := .done, cause := .none, base := s.len - 6404096#32, off := 6404096#23,
                   held := lastHeld Geometry.bfu s.inp (s.len.toNat - 6404096),
                   plane := outputPlanes Geometry.bfu s.inp (s.len.toNat - 6404096),
                   outcomeOpen := false, planeOpen := false }) := by
  rcases Nat.lt_or_ge s.len.toNat 6404096 with hlen | hlen
  · exact .inl ⟨hlen, transact_short hlen⟩
  · cases hm : firstMismatch s.inp (s.len.toNat - 6404096) with
    | some j => exact .inr (.inl ⟨hlen, j, rfl, transact_badMarker hlen hm⟩)
    | none => exact .inr (.inr ⟨hlen, rfl, transact_done hlen hm⟩)

/-- What the closed form gives at rest and every step of a BUSY block keeps, DECODE gives: its two forms in one
induction. -/
theorem exec_decode_induction {P : State → Prop} (hrest : s.status ≠ .busy → P (transact Geometry.bfu s))
    (hbusy : s.status = .busy → P s)
    (hstep : ∀ u v, P u → u.status = .busy → blockStep Geometry.bfu u = .next v → P v)
    (h : exec .decode s = .next t) : P t := by
  obtain ⟨hb, rfl⟩ | ⟨hb, h⟩ := execDecode_cases h
  · exact hrest hb
  · exact awaitEnd_induction hstep _ s t (hbusy hb) h

/-- DECODE writes neither IN nor LEN (R25, R54). -/
theorem exec_decode_keeps_input (h : exec .decode s = .next t) : t.inp = s.inp ∧ t.len = s.len := by
  refine exec_decode_induction (P := fun u => u.inp = s.inp ∧ u.len = s.len) (fun _ => ?_) (fun _ => ⟨rfl, rfl⟩)
    (fun u v hu _ huv => ?_) h
  · obtain ⟨_, e⟩ | ⟨_, j, _, e⟩ | ⟨_, _, e⟩ := transact_cases s
    · rw [e, raise_inp, raise_len]
      exact ⟨rfl, rfl⟩
    · rw [e]
      exact ⟨rfl, rfl⟩
    · rw [e]
      exact ⟨rfl, rfl⟩
  · obtain ⟨hlen, _, hinp, _⟩ := blockStep_frame huv
    exact ⟨hinp.trans hu.1, hlen.trans hu.2⟩

/-- DECODE does not put BAD_FRAMING in CAUSE unless the outcome is open (R114). -/
theorem exec_decode_not_badFraming (ho : s.outcomeOpen = false) (hc : s.cause ≠ .badFraming)
    (h : exec .decode s = .next t) : t.cause ≠ .badFraming := by
  refine (exec_decode_induction (P := fun u => u.outcomeOpen = false ∧ u.cause ≠ .badFraming) (fun _ => ?_)
    (fun _ => ⟨ho, hc⟩) (fun u v hu _ huv => ?_) h).2
  · obtain ⟨_, e⟩ | ⟨_, j, _, e⟩ | ⟨_, _, e⟩ := transact_cases s
    · simp [e]
    · simp [e]
    · simp [e]
  · obtain ⟨huo, huc⟩ := hu
    obtain ⟨-, -, -, hopen⟩ := blockStep_frame huv
    refine ⟨hopen.trans huo, ?_⟩
    obtain ⟨_, e⟩ | ⟨_, _, e⟩ | ⟨_, _, e⟩ := blockStep_status huv huo
    · exact e ▸ huc
    · exact e ▸ huc
    · simp [e]

/-! ## STATUS and CAUSE -/

/-- Settles O49: the effects that change STATUS, and the block's step, which is MARKER_CHECK or FINISH where it does. -/
theorem statusTransitions : Obligations.StatusTransitions := by
  unfold Obligations.StatusTransitions
  intro i s t hdecode ho h hne
  cases exec_effect h with
  | reset => exact .inl ⟨rfl, rfl⟩
  | startShort hb => exact .inr (.inl ⟨rfl, hb, .inr rfl⟩)
  | startBegun hb => exact .inr (.inl ⟨rfl, hb, .inl rfl⟩)
  | extractShort hb => exact .inr (.inr (.inl ⟨rfl, hb, rfl⟩))
  | finished hb hoff => exact .inr (.inr (.inr (.inl ⟨.inl rfl, hb, hoff, rfl⟩)))
  | mismatched hb hoff => exact .inr (.inr (.inr (.inr ⟨.inl rfl, hb, by omega, rfl, rfl⟩)))
  | stepped hb h =>
    obtain ⟨e, _⟩ | ⟨hoff, e, _⟩ | ⟨hoff, e, ec⟩ := blockStep_status h ho
    · exact absurd e hne
    · exact .inr (.inr (.inr (.inl ⟨.inr rfl, hb, hoff, e⟩)))
    · exact .inr (.inr (.inr (.inr ⟨.inr rfl, hb, by omega, e, ec⟩)))
  | opened _ _ hopen => simp [ho] at hopen
  | decoded => exact absurd rfl hdecode
  | lenWritten => exact absurd (breakContract_status s) hne
  | inWritten => exact absurd (breakContract_status s) hne
  | _ => exact absurd rfl hne

/-- Settles O28: the effects that write CAUSE write another code, and a decode is START, block steps and FINISH. -/
theorem badFramingNeverRaised : Obligations.BadFramingNeverRaised := by
  unfold Obligations.BadFramingNeverRaised
  intro i s t ho hc h
  cases exec_effect h with
  | startShort => exact Cause.noConfusion
  | startBegun => exact Cause.noConfusion
  | extractShort => exact Cause.noConfusion
  | mismatched => exact Cause.noConfusion
  | reset => exact Cause.noConfusion
  | opened _ _ hopen => simp [ho] at hopen
  | stepped _ h =>
    obtain ⟨_, e⟩ | ⟨_, _, e⟩ | ⟨_, _, e⟩ := blockStep_status h ho
    · exact e ▸ hc
    · exact e ▸ hc
    · exact e ▸ Cause.noConfusion
  | decoded h => exact exec_decode_not_badFraming ho hc h
  | lenWritten => exact (breakContract_cause s).symm ▸ hc
  | inWritten => exact (breakContract_cause s).symm ▸ hc
  | _ => exact hc

/-- At rest only START, its part, DECODE and RESET change STATUS or CAUSE (R198). -/
theorem exec_keeps_status_at_rest (hb : s.status ≠ .busy) (h : exec i s = .next t) (hstart : i ≠ .start)
    (hdecode : i ≠ .decode) (hextract : i ≠ .frameExtract) (hreset : i ≠ .reset) :
    t.status = s.status ∧ t.cause = s.cause := by
  cases exec_effect h with
  | startShort => exact absurd rfl hstart
  | startBegun => exact absurd rfl hstart
  | extractShort => exact absurd rfl hextract
  | decoded => exact absurd rfl hdecode
  | reset => exact absurd rfl hreset
  | opened _ hbusy => exact absurd hbusy hb
  | mismatched hbusy => exact absurd hbusy hb
  | finished hbusy => exact absurd hbusy hb
  | stepped hbusy => exact absurd hbusy hb
  | lenWritten => exact ⟨breakContract_status s, breakContract_cause s⟩
  | inWritten => exact ⟨breakContract_status s, breakContract_cause s⟩
  | _ => exact ⟨rfl, rfl⟩

/-- Settles O50: ERROR is a state of rest. -/
theorem errorPersists : Obligations.ErrorPersists := by
  unfold Obligations.ErrorPersists
  intro i s t herr h hstart hdecode hextract hreset
  obtain ⟨hstatus, hcause⟩ := exec_keeps_status_at_rest (by simp [herr]) h hstart hdecode hextract hreset
  exact ⟨hstatus.trans herr, hcause⟩

theorem doneOutput_iff : doneOutput s = true ↔ s.status = .done := by simp [doneOutput]

theorem errorOutput_iff : errorOutput s = true ↔ s.status = .error := by simp [errorOutput]

/-- Settles O56: each output is high in one state of rest only. -/
theorem levelOutputsFollowStatus : Obligations.LevelOutputsFollowStatus := by
  unfold Obligations.LevelOutputsFollowStatus
  refine ⟨fun s => ⟨doneOutput_iff, errorOutput_iff, ?_, _, rfl, ?_⟩, fun i s t h hstart hdecode hextract hreset => ?_⟩
  · rw [doneOutput_iff, errorOutput_iff]
    rintro ⟨hd, he⟩
    simp [hd] at he
  · rw [doneOutput_iff, errorOutput_iff]
    cases s.status <;> decide
  · rw [doneOutput_iff, doneOutput_iff, errorOutput_iff, errorOutput_iff]
    have hkeep := fun hb => (exec_keeps_status_at_rest hb h hstart hdecode hextract hreset).1
    exact ⟨fun hs => (hkeep (by simp [hs])).trans hs, fun hs => (hkeep (by simp [hs])).trans hs⟩

/-! ## Frames -/

/-- Settles O51: two host operations and RESET write IN or LEN, and neither composite operation does. -/
theorem blockNeverWritesInput : Obligations.BlockNeverWritesInput := by
  unfold Obligations.BlockNeverWritesInput
  intro i s t h
  cases exec_effect h with
  | lenWritten v => exact ⟨fun _ => breakContract_inp s, fun hne => absurd rfl (hne v)⟩
  | inWritten a b => exact ⟨fun hne => absurd rfl (hne a b), fun _ _ => breakContract_len s⟩
  | reset => exact ⟨fun _ => rfl, fun _ hne => absurd rfl hne⟩
  | stepped _ h =>
    obtain ⟨hlen, _, hinp, _⟩ := blockStep_frame h
    exact ⟨fun _ => hinp, fun _ _ => hlen⟩
  | decoded h =>
    obtain ⟨hinp, hlen⟩ := exec_decode_keeps_input h
    exact ⟨fun _ => hinp, fun _ _ => hlen⟩
  | _ => exact ⟨fun _ => rfl, fun _ _ => rfl⟩

/-- Settles O52: the effects with a new PLANE are those of a BUSY block. -/
theorem planeChangesOnlyByBlock : Obligations.PlaneChangesOnlyByBlock := by
  unfold Obligations.PlaneChangesOnlyByBlock
  intro i s t h hreset hdecode
  cases exec_effect h with
  | rowFramed _ _ hbusy => exact ⟨absurd hbusy, fun hne => absurd rfl hne⟩
  | stepped hbusy => exact ⟨absurd hbusy, fun _ _ hne => absurd rfl hne⟩
  | wrote hi _ hbusy =>
    refine ⟨absurd hbusy, fun _ hemit _ halloc hwrite => ?_⟩
    obtain rfl | ⟨r, c, rfl⟩ | ⟨r, c, v, rfl⟩ := hi
    · exact absurd rfl hemit
    · exact absurd rfl (halloc r c)
    · exact absurd rfl (hwrite r c v)
  | reset => exact absurd rfl hreset
  | decoded => exact absurd rfl hdecode
  | lenWritten => exact ⟨fun _ => breakContract_plane s, fun _ _ _ _ _ => breakContract_plane s⟩
  | inWritten => exact ⟨fun _ => breakContract_plane s, fun _ _ _ _ _ => breakContract_plane s⟩
  | _ => exact ⟨fun _ => rfl, fun _ _ _ _ _ => rfl⟩

/-- Settles O53: effect by effect, which of the three registers it assigns. -/
theorem hiddenRegistersFrame : Obligations.HiddenRegistersFrame := by
  unfold Obligations.HiddenRegistersFrame
  intro i s t h hdecode hreset
  cases exec_effect h with
  | startBegun => exact ⟨fun hne => absurd rfl hne, fun _ _ _ => rfl, fun hne => absurd rfl hne⟩
  | extractLocated => exact ⟨fun _ hne => absurd rfl hne, fun _ _ _ => rfl, fun _ _ _ _ _ => rfl⟩
  | advanced hi =>
    refine ⟨fun _ _ => rfl, fun _ _ _ => rfl, fun _ hmarker hheader => ?_⟩
    obtain rfl | rfl := hi
    · exact absurd rfl hmarker
    · exact absurd rfl hheader
  | latched => exact ⟨fun _ _ => rfl, fun hne => absurd rfl hne, fun _ _ _ _ _ => rfl⟩
  | rowFramed => exact ⟨fun _ _ => rfl, fun _ hne => absurd rfl hne, fun _ _ _ hne => absurd rfl hne⟩
  | stepped _ h =>
    obtain ⟨-, hbase, -, -⟩ := blockStep_frame h
    exact ⟨fun _ _ => hbase, fun _ _ hne => absurd rfl hne, fun _ _ _ _ hne => absurd rfl hne⟩
  | decoded => exact absurd rfl hdecode
  | reset => exact absurd rfl hreset
  | lenWritten =>
    exact ⟨fun _ _ => breakContract_base s, fun _ _ _ => breakContract_held s, fun _ _ _ _ _ => breakContract_off s⟩
  | inWritten =>
    exact ⟨fun _ _ => breakContract_base s, fun _ _ _ => breakContract_held s, fun _ _ _ _ _ => breakContract_off s⟩
  | _ => exact ⟨fun _ _ => rfl, fun _ _ _ => rfl, fun _ _ _ _ _ => rfl⟩

/-- Settles O54: each value operation's one form of answer. -/
theorem valueOperationsHaveNoSideEffect : Obligations.ValueOperationsHaveNoSideEffect := by
  unfold Obligations.ValueOperationsHaveNoSideEffect
  intro i s t h hi
  obtain rfl | rfl | rfl | ⟨p, r, c, rfl⟩ | ⟨b, rfl⟩ | ⟨x, y, k, rfl⟩ | ⟨g, k, rfl⟩ | rfl | rfl | rfl | rfl := hi
  · cases h; rfl
  · cases h; rfl
  · cases h; rfl
  · exact execPlaneRead_cases h
  · cases h; rfl
  · rw [execUnpackLow_cases h]; rfl
  · rw [execPackRemove_cases h]; rfl
  · cases h; rfl
  · cases h; rfl
  · cases h; rfl
  · cases h; rfl

/-- Outside BUSY an operation of the block is refused, wherever the map selects it (R20, log 13). -/
theorem blockOperation_of_not_busy {selected : Bool} {own : Host.Outcome State Fault Refusal} (hb : s.status ≠ .busy) :
    blockOperation selected s own = .refused .notSelected := if_neg hb

/-- Settles O55: every operation of the block is a `blockOperation`. -/
theorem blockOperationsNeedBusy : Obligations.BlockOperationsNeedBusy := by
  unfold Obligations.BlockOperationsNeedBusy
  intro i s hb hi
  obtain rfl | rfl | rfl | rfl | rfl | rfl | rfl | rfl | rfl | ⟨r, c, rfl⟩ | ⟨r, c, v, rfl⟩ := hi <;>
    exact blockOperation_of_not_busy hb

end Sys2Proof.Machine
end

section
/-! PROOFS. The invariants: what one byte of the data area does to D and PLANE, that every step keeps `MachineInv` and
`Progress` (R21 to R28, R111, R113, R154, R155), and that a decode that finishes delivers the result. -/

namespace Sys2Proof.Machine

variable {i : Instr} {s t : State}

/-! ## One byte of the data area -/

/-- ROW_FRAME's operation writes D and PLANE only. Stated for every geometry: at the hardware's numbers the kernel would
evaluate the row. -/
theorem rowBody_frame {G : Geometry} (b : Byte) (s : State) :
    rowBody G b s = { s with held := (rowBody G b s).held, plane := (rowBody G b s).plane } := by
  obtain ⟨_, e⟩ | ⟨_, _, e⟩ | ⟨_, _, _, e⟩ | ⟨_, _, _, e⟩ := rowBody_cases G b s
  · rw [e]
  · rw [e]
  · rw [e]; rfl
  · rw [e]; rfl

/-- D after a byte of the data area: the byte where it is a kept byte of the lane, else as before (R130). -/
theorem held_get_rowBody (b : Byte) {k : Nat} (hk : k < 4) :
    (rowBody Geometry.bfu b s).held.get k
      = if rowAt Geometry.bfu s.off.toNat < 1944 ∧ bcolAt Geometry.bfu s.off.toNat < 3240 ∧
          laneAt Geometry.bfu s.off.toNat = k then b
        else s.held.get k := by
  obtain ⟨hrow, e⟩ | ⟨_, hcol, e⟩ | ⟨hrow, hcol, hlane, e⟩ | ⟨_, _, hlane, e⟩ := rowBody_cases Geometry.bfu b s
  · rw [bfu_rowsKept] at hrow
    rw [e, if_neg (by omega)]
  · rw [bfu_rowBytesKept] at hcol
    rw [e, if_neg (by omega)]
  · rw [bfu_rowsKept] at hrow
    rw [bfu_rowBytesKept] at hcol
    rw [← laneAt] at hlane
    rw [e, latchByte_held, Held.get_set _ _ hlane hk]
    simp only [hrow, hcol, true_and, eq_comm]
  · rw [e, emitGroup_held, if_neg]
    rintro ⟨_, _, hk'⟩
    rw [laneAt] at hk'
    omega

/-- The operation at a packing byte of the data area is GROUP_EMIT (R113). -/
theorem rowBody_of_off_eq_packing (b : Byte) {r g : Nat} (hr : r < 1944) (hg : g < 648)
    (hoff : s.off.toNat = keptOffset Geometry.bfu r g 4) : rowBody Geometry.bfu b s = emitGroup Geometry.bfu b s := by
  refine rowBody_of_packing_lane ?_ ?_ ?_
  · rw [hoff, rowAt_keptOffset r hg (by decide), bfu_rowsKept]
    exact hr
  · rw [hoff, bcolAt_keptOffset r hg (by decide), bfu_rowBytesKept]
    omega
  · rw [hoff, bcolAt_keptOffset r hg (by decide)]
    omega

/-- PLANE after a byte of the data area: at the packing byte of a coordinate's group its three words are written, from D
and the byte; every other word is as before (R131). -/
theorem readPlane_rowBody (b : Byte) (hlow : 32768 ≤ s.off.toNat) {p r c : Nat} (hp : p < 3) (hr : r < 1944)
    (hc : c < 2592) :
    readPlane Geometry.bfu (rowBody Geometry.bfu b s).plane p r c
      = if s.off.toNat = keptOffset Geometry.bfu r (c / 4) 4 then
          some (if p = (sel r c).index then sampleValue (s.held.get (c % 4)) b (c % 4) else 0)
        else readPlane Geometry.bfu s.plane p r c := by
  have hg : c / 4 < 648 := by omega
  by_cases hoff : s.off.toNat = keptOffset Geometry.bfu r (c / 4) 4
  · rw [rowBody_of_off_eq_packing b hr hg hoff, readPlane_emitGroup_of_off b hr hg hoff hp hr hc, if_pos ⟨rfl, rfl⟩,
      if_pos hoff]
  · rw [if_neg hoff]
    obtain ⟨_, e⟩ | ⟨_, _, e⟩ | ⟨_, _, _, e⟩ | ⟨hrow, hcol, hlane, e⟩ := rowBody_cases Geometry.bfu b s
    · rw [e]
    · rw [e]
    · rw [e, latchByte_plane]
    · have hgroup : groupAt Geometry.bfu s.off.toNat < 648 := Nat.div_lt_of_lt_mul hcol
      rw [e, readPlane_emitGroup b hrow hgroup hp hr hc, if_neg]
      rintro ⟨hr', hg'⟩
      have hpos := off_eq_keptOffset hlow
      rw [laneAt, hlane, ← hr', ← hg'] at hpos
      exact hoff hpos

/-- ROW_FRAME's operation keeps PLANE in canonical form. -/
theorem rowBody_plane_wf (b : Byte) (h : s.plane.wf) : (rowBody Geometry.bfu b s).plane.wf := by
  obtain ⟨_, e⟩ | ⟨_, _, e⟩ | ⟨_, _, _, e⟩ | ⟨hrow, hcol, _, e⟩ := rowBody_cases Geometry.bfu b s
  · rwa [e]
  · rwa [e]
  · rwa [e, latchByte_plane]
  · rw [e, emitGroup_plane]
    exact emitLanes_wf h hrow (Nat.div_lt_of_lt_mul hcol) _ _

/-- What D and PLANE become at the byte `b` of the data area (R113, R130, R131). They are variables here, so that no later
proof evaluates the row or the lane of `off`. -/
structure RowByte (s : State) (b : Byte) (d : Held) (m : PlaneMem) : Prop where
  held : ∀ k, k < 4 → d.get k
    = if rowAt Geometry.bfu s.off.toNat < 1944 ∧ bcolAt Geometry.bfu s.off.toNat < 3240 ∧
        laneAt Geometry.bfu s.off.toNat = k then b
      else s.held.get k
  plane : ∀ p r c, p < 3 → r < 1944 → c < 2592 → readPlane Geometry.bfu m p r c
    = if s.off.toNat = keptOffset Geometry.bfu r (c / 4) 4 then
        some (if p = (sel r c).index then sampleValue (s.held.get (c % 4)) b (c % 4) else 0)
      else readPlane Geometry.bfu s.plane p r c
  wf : s.plane.wf → m.wf

theorem rowByte_rowBody (b : Byte) (hlow : 32768 ≤ s.off.toNat) :
    RowByte s b (rowBody Geometry.bfu b s).held (rowBody Geometry.bfu b s).plane where
  held := fun _ => held_get_rowBody b
  plane := fun _ _ _ => readPlane_rowBody b hlow
  wf := rowBody_plane_wf b

/-- A step of a running block: FINISH, the trap of a wrong marker byte, a byte before the data area, or one in it
(R173). -/
theorem running_blockStep_cases (hrun : Running s) (h : blockStep Geometry.bfu s = .next t) :
    (s.off.toNat = 6404096 ∧ t = finish s) ∨
    (s.off.toNat < 4 ∧ readIn s.inp (s.base.toNat + s.off.toNat) ≠ markerByte s.off.toNat ∧ t = raise .badMarker s) ∨
    (s.off.toNat < 32768 ∧
      (s.off.toNat < 4 → readIn s.inp (s.base.toNat + s.off.toNat) = markerByte s.off.toNat) ∧ t = advance s) ∨
    (32768 ≤ s.off.toNat ∧ s.off.toNat ≠ 6404096 ∧
      ∃ d m, RowByte s (readIn s.inp (s.base.toNat + s.off.toNat)) d m ∧ t = advance { s with held := d, plane := m }) := by
  rcases blockStep_cases hrun.2 h with ⟨hend, e⟩ | ⟨hend, _, ⟨h4, e⟩ | ⟨h4, hhead, e⟩ | ⟨_, hdata, e⟩⟩
  · exact .inl ⟨by simpa using hend, e⟩
  · rcases markerCheck_cases (readIn s.inp (s.base.toNat + s.off.toNat)) s with ⟨hm, e'⟩ | ⟨hm, e'⟩
    · exact .inr (.inr (.inl ⟨by omega, fun _ => hm, e.trans e'⟩))
    · exact .inr (.inl ⟨h4, hm, e.trans e'⟩)
  · rw [bfu_headerBytes] at hhead
    exact .inr (.inr (.inl ⟨hhead, fun h => by omega, e⟩))
  · rw [bfu_headerBytes] at hdata
    refine .inr (.inr (.inr ⟨hdata, by simpa using hend, _, _, rowByte_rowBody _ hdata, ?_⟩))
    rw [e, rowFrame_bfu, ← rowBody_frame]

/-! ## `MachineInv` by the value of STATUS -/

section
variable (hmem : s.inp.wf) (hplanes : s.plane.wf)
include hmem hplanes

/-- Where the host has opened the outcome only the canonical forms are claimed (log 10). -/
theorem MachineInv.of_open (ho : s.outcomeOpen = true) (hp : s.planeOpen = true) : MachineInv s where
  memory := hmem
  planes := hplanes
  opened := fun _ => hp
  cause := fun h => by simp [ho] at h
  framing := fun h => by simp [ho] at h
  idle := fun h => by simp [ho] at h
  busy := fun h => by simp [ho] at h
  written := fun h => by simp [ho] at h
  done := fun h => by simp [hp] at h

/-- After a trap only STATUS and CAUSE are constrained (R194). -/
theorem MachineInv.of_error (hs : s.status = .error) (hc : s.cause = .shortBuffer ∨ s.cause = .badMarker)
    (ho : s.outcomeOpen = false) : MachineInv s where
  memory := hmem
  planes := hplanes
  opened := fun h => by simp [ho] at h
  cause := fun _ => by rcases hc with h | h <;> simp [hs, h]
  framing := fun _ => by rcases hc with h | h <;> simp [h]
  idle := fun _ h => by simp [hs] at h
  busy := fun _ h => by simp [hs] at h
  written := fun _ h => by simp [hs] at h
  done := fun _ h => by simp [hs] at h

theorem MachineInv.of_done (hs : s.status = .done) (hc : s.cause = .none) (ho : s.outcomeOpen = false)
    (hfull : ∀ p r c, p < 3 → r < 1944 → c < 2592 → (readPlane Geometry.bfu s.plane p r c).isSome) :
    MachineInv s where
  memory := hmem
  planes := hplanes
  opened := fun h => by simp [ho] at h
  cause := fun _ => by simp [hs, hc]
  framing := fun _ => by simp [hc]
  idle := fun _ h => by simp [hs] at h
  busy := fun _ h => by simp [hs] at h
  written := fun _ h => by simp [hs] at h
  done := fun _ _ => hfull

theorem MachineInv.of_running (hrun : Running s) (hc : s.cause = .none) (hframe : InFrame s)
    (hwritten : ∀ p r c, p < 3 → r < 1944 → c < 2592 → keptOffset Geometry.bfu r (c / 4) 4 < s.off.toNat →
      (readPlane Geometry.bfu s.plane p r c).isSome) : MachineInv s where
  memory := hmem
  planes := hplanes
  opened := fun h => by simp [hrun.2] at h
  cause := fun _ => by simp [hrun.1, hc]
  framing := fun _ => by simp [hc]
  idle := fun _ h => by simp [hrun.1] at h
  busy := fun _ _ => hframe
  written := fun _ _ => hwritten
  done := fun _ h => by simp [hrun.1] at h

end

/-- After reset, in STATUS IDLE, no plane word is held (R26, R220). -/
theorem MachineInv.of_idle (hmem : s.inp.wf) (hs : s.status = .idle) (hc : s.cause = .none) (hplane : s.plane = [])
    (ho : s.outcomeOpen = false) (hp : s.planeOpen = false) : MachineInv s where
  memory := hmem
  planes := hplane ▸ planeMem_wf_nil
  opened := fun h => by simp [ho] at h
  cause := fun _ => by simp [hs, hc]
  framing := fun _ => by simp [hc]
  idle := fun _ _ => ⟨hplane, hp⟩
  busy := fun _ h => by simp [hs] at h
  written := fun _ h => by simp [hs] at h
  done := fun _ h => by simp [hs] at h

/-- A result's planes are in canonical form and hold every word (R155). -/
theorem MachineInv.of_result {m : Memory} {base : Nat} (hmem : s.inp.wf) (hs : s.status = .done) (hc : s.cause = .none)
    (ho : s.outcomeOpen = false) (hplane : s.plane = outputPlanes Geometry.bfu m base) : MachineInv s := by
  refine .of_done hmem (hplane ▸ outputPlanes_wf m base) hs hc ho fun p r c hp hr hc' => ?_
  rw [hplane, readPlane_outputPlanes m base hp hr hc']
  rfl

theorem MachineInv.cause_of_running (hinv : MachineInv s) (hrun : Running s) : s.cause = .none := by
  by_contra hc
  have herr := (hinv.cause hrun.2).mp hc
  simp [hrun.1] at herr

/-- A packing byte is past the header. -/
theorem lt_keptOffset_packing (r g : Nat) : 32768 < keptOffset Geometry.bfu r g 4 := by
  rw [keptOffset_eq]
  omega

/-- Every packing byte is before the end of the frame. -/
theorem keptOffset_packing_lt_end {r c : Nat} (hr : r < 1944) (hc : c < 2592) :
    keptOffset Geometry.bfu r (c / 4) 4 < 6404096 := by
  rw [keptOffset_eq]
  omega

/-- The groups passed with one more byte of the data area: those passed before, and the one whose packing byte it is. -/
theorem passed_of_advance (hoff : s.off.toNat ≤ 6404096) {x : Nat} (h : x < (advance s).off.toNat) :
    s.off.toNat = x ∨ x < s.off.toNat := by
  rw [advance_off_toNat hoff] at h
  omega

/-- The block's step keeps the invariant. -/
theorem blockStep_keeps_machineInv (hinv : MachineInv s) (hb : s.status = .busy)
    (h : blockStep Geometry.bfu s = .next t) : MachineInv t := by
  cases ho : s.outcomeOpen with
  | true =>
    rw [blockStep, if_pos ho] at h
    cases h
    exact .of_open hinv.memory hinv.planes ho (hinv.opened ho)
  | false =>
    have hrun : Running s := ⟨hb, ho⟩
    have hc := hinv.cause_of_running hrun
    obtain ⟨hbase, hoff⟩ := hinv.inFrame hrun
    obtain ⟨hend, rfl⟩ | ⟨_, _, rfl⟩ | ⟨hlt, _, rfl⟩ | ⟨_, hne, d, m, hrow, rfl⟩ := running_blockStep_cases hrun h
    · exact .of_done hinv.memory hinv.planes rfl hc ho fun p r c hp hr hc' =>
        hinv.written ho hb p r c hp hr hc' (hend ▸ keptOffset_packing_lt_end hr hc')
    · exact .of_error hinv.memory hinv.planes rfl (.inr rfl) ho
    · have hoff' := advance_off_toNat hoff
      refine .of_running hinv.memory hinv.planes hrun hc ⟨hbase, by omega⟩ fun p r c _ _ _ hpass => ?_
      have := lt_keptOffset_packing r (c / 4)
      omega
    · refine .of_running hinv.memory (hrow.wf hinv.planes) hrun hc ⟨hbase, ?_⟩ fun p r c hp hr hc' hpass => ?_
      · exact (advance_off_toNat hoff).le.trans (by omega)
      · rw [advance_plane, hrow.plane p r c hp hr hc']
        split
        · rfl
        · next hnot =>
          exact hinv.written ho hb p r c hp hr hc' ((passed_of_advance (s := s) hoff hpass).resolve_left hnot)

/-- The closed form of a decode meets the invariant (R171). -/
theorem transact_machineInv (hinv : MachineInv s) : MachineInv (transact Geometry.bfu s) := by
  obtain ⟨_, e⟩ | ⟨_, j, _, e⟩ | ⟨_, _, e⟩ := transact_cases s
  · rw [e]
    exact .of_error hinv.memory hinv.planes rfl (.inl rfl) rfl
  · rw [e]
    exact .of_error hinv.memory hinv.planes rfl (.inr rfl) rfl
  · rw [e]
    exact .of_result (m := s.inp) (base := s.len.toNat - 6404096) hinv.memory rfl rfl rfl
      (by with_reducible rfl)

/-- `base` after START places the frame at the end of the buffer (R28, R110). -/
theorem inFrame_of_start (hlen : 6404096 ≤ s.len.toNat) : InFrame (enterBusy (latchBase Geometry.bfu s)) := by
  rw [InFrame, enterBusy_base, enterBusy_len, latchBase_base_toNat hlen, latchBase_len, enterBusy_off]
  exact ⟨Nat.sub_add_cancel hlen, by simp⟩

/-- At rest a new LEN or IN in canonical form keeps the invariant. -/
theorem MachineInv.of_write_at_rest (hinv : MachineInv s) (hb : s.status ≠ .busy) (v : LenWord) {m : Memory} (hm : m.wf) :
    MachineInv { s with len := v, inp := m } :=
  { hinv with
    memory := hm
    busy := fun _ hbusy => absurd hbusy hb }

/-- A host write of LEN or IN keeps the invariant: at rest nothing is claimed of them, and while BUSY it opens the outcome
(R177, R179, U4). -/
theorem MachineInv.of_host_write (hinv : MachineInv s) (v : LenWord) {m : Memory} (hm : m.wf) :
    MachineInv { breakContract s with len := v, inp := m } := by
  by_cases hb : s.status = .busy
  · exact .of_open hm (by simpa using hinv.planes) (by simp [hb]) (by simp [hb])
  · rw [breakContract_of_not_busy hb]
    exact hinv.of_write_at_rest hb v hm

/-- What the host may present keeps the invariant. -/
theorem exec_keeps_machineInv (hi : i.presentable = true) (hinv : MachineInv s) (h : exec i s = .next t) :
    MachineInv t := by
  cases exec_effect h with
  | silent => exact { hinv with }
  | startShort => exact .of_error hinv.memory hinv.planes rfl (.inl rfl) rfl
  | startBegun _ hlen =>
    exact .of_running hinv.memory hinv.planes ⟨rfl, rfl⟩ rfl (inFrame_of_start hlen) fun _ _ _ _ _ _ h =>
      absurd h (Nat.not_lt_zero _)
  | lenWritten v => simpa using hinv.of_host_write v hinv.memory
  | inWritten a b => simpa using hinv.of_host_write s.len (writeIn_wf hinv.memory a.isLt b)
  | reset => exact .of_idle hinv.memory rfl rfl rfl rfl rfl
  | stepped hb h => exact blockStep_keeps_machineInv hinv hb h
  | decoded h =>
    exact exec_decode_induction (fun _ => transact_machineInv hinv) (fun _ => hinv)
      (fun _ _ hu hb huv => blockStep_keeps_machineInv hu hb huv) h
  | opened hi' => simp [hi] at hi'
  | advanced hi' => obtain rfl | rfl := hi' <;> cases hi
  | wrote hi' => obtain rfl | ⟨r, c, rfl⟩ | ⟨r, c, v, rfl⟩ := hi' <;> cases hi
  | extractShort | extractLocated | mismatched | rowFramed | latched | finished => cases hi

/-- Taking an operation's bytes from the port keeps the invariant, which does not speak of the port. -/
theorem MachineInv.of_port (hinv : MachineInv s) (p : List Byte) : MachineInv { s with port := p } := { hinv with }

/-- Settles O10: the block's own step is STEP, and a presented operation is one the host may present. -/
theorem stepKeepsInvariant : Obligations.StepKeepsInvariant := by
  unfold Obligations.StepKeepsInvariant
  intro s t hinv h
  obtain ⟨_, h⟩ | ⟨i, rest, _, hi, h⟩ := step_cases h
  · exact exec_keeps_machineInv (by decide) hinv h
  · exact exec_keeps_machineInv hi (hinv.of_port rest) h

/-! ## `Progress` -/

/-- Up to the first data byte only the marker bytes count. -/
theorem Progress.of_before_data (hoff : s.off.toNat ≤ 32768)
    (hmarker : ∀ j, j < 4 → j < s.off.toNat → readIn s.inp (s.base.toNat + j) = markerByte j) : Progress s where
  marker := hmarker
  latched := fun r g j k _ _ _ hk h => by
    rw [keptOffset_eq] at h
    omega
  planes := fun p r c _ _ _ h => by
    have := lt_keptOffset_packing r (c / 4)
    omega

/-- A word of the result from the group's bytes (R135, R154). -/
theorem outputWord_eq (m : Memory) (base p r c : Nat) :
    outputWord Geometry.bfu m base p r c
      = if p = (sel r c).index then
          sampleValue (readIn m (base + keptOffset Geometry.bfu r (c / 4) (c % 4)))
            (readIn m (base + keptOffset Geometry.bfu r (c / 4) 4)) (c % 4)
        else 0 := rfl

/-- One more byte of the data area keeps the progress right: a data byte is the next of its group in D, and a packing byte
completes the group whose four data bytes D holds. -/
theorem Progress.of_rowByte (hp : Progress s) (hlow : 32768 ≤ s.off.toNat) (hoff : s.off.toNat ≤ 6404096) {d : Held}
    {m : PlaneMem} (hrow : RowByte s (readIn s.inp (s.base.toNat + s.off.toNat)) d m) :
    Progress (advance { s with held := d, plane := m }) where
  marker := fun j hj _ => hp.marker j hj (by omega)
  latched := fun r g j k hr hg hj hk h => by
    obtain ⟨j, rfl⟩ : ∃ j', j = j' + 1 := ⟨j - 1, by omega⟩
    have hpos : s.off.toNat = keptOffset Geometry.bfu r g j := by
      rw [keptOffset_eq] at h ⊢
      have hnext := (advance_off_toNat (s := { s with held := d, plane := m }) hoff).symm.trans h
      simp only at hnext
      omega
    have hlane : laneAt Geometry.bfu s.off.toNat = j := by rw [hpos, laneAt_keptOffset r hg (by omega)]
    have hrowAt : rowAt Geometry.bfu s.off.toNat = r := by rw [hpos, rowAt_keptOffset r hg (by omega)]
    have hbcol : bcolAt Geometry.bfu s.off.toNat = 5 * g + j := by rw [hpos, bcolAt_keptOffset r hg (by omega)]
    rw [advance_held, hrow.held k (by omega), hlane, hrowAt, hbcol]
    split
    · next hkj =>
      obtain ⟨-, -, rfl⟩ := hkj
      rw [hpos]
      rfl
    · next hkj => exact hp.latched r g j k hr hg (by omega) (by omega) hpos
  planes := fun p r c hp' hr hc h => by
    rw [advance_plane, hrow.plane p r c hp' hr hc]
    split
    · next hpos =>
      rw [hp.latched r (c / 4) 4 (c % 4) hr (by omega) (by omega) (by omega) hpos, hpos]
      exact congrArg some (outputWord_eq s.inp s.base.toNat p r c).symm
    · next hnot => exact hp.planes p r c hp' hr hc ((passed_of_advance (s := s) hoff h).resolve_left hnot)

/-- The block's step keeps the progress of a running decode right. -/
theorem blockStep_keeps_progress (hrun : Running s) (hframe : InFrame s) (hp : Progress s)
    (h : blockStep Geometry.bfu s = .next t) (ht : Running t) : Progress t := by
  obtain ⟨-, hoff⟩ := hframe
  obtain ⟨_, rfl⟩ | ⟨_, _, rfl⟩ | ⟨hlt, hmarker, rfl⟩ | ⟨hge, _, d, m, hrow, rfl⟩ := running_blockStep_cases hrun h
  · exact Status.noConfusion ht.1
  · exact Status.noConfusion ht.1
  · have hoff' := advance_off_toNat hoff
    refine .of_before_data (by omega) fun j hj hpass => ?_
    obtain hnow | hbefore := passed_of_advance hoff hpass
    · rw [← hnow]
      exact hmarker (by omega)
    · exact hp.marker j hj hbefore
  · exact hp.of_rowByte hge hoff hrow

/-- START's new decode has passed nothing yet. -/
theorem progress_of_start : Progress (enterBusy (latchBase Geometry.bfu s)) :=
  .of_before_data (by simp) fun j _ h => absurd h (by simp)

/-- A host write leaves no decode running: at rest it starts none, and while BUSY it opens the outcome (log 10). -/
theorem not_running_of_host_write (v : LenWord) (m : Memory) :
    ¬ Running { breakContract s with len := v, inp := m } := by
  rintro ⟨hb, ho⟩
  simp only [breakContract_status] at hb
  simp [hb] at ho

/-- A decode at the transaction level has ended (R171). -/
theorem transact_status_ne_busy (s : State) : (transact Geometry.bfu s).status ≠ .busy := by
  obtain ⟨_, e⟩ | ⟨_, j, _, e⟩ | ⟨_, _, e⟩ := transact_cases s
  · simp [e]
  · simp [e]
  · simp [e]

/-- The block's step keeps the invariant and the progress together. -/
theorem blockStep_keeps_inv_and_progress (h : MachineInv s ∧ (Running s → Progress s)) (hb : s.status = .busy)
    (hst : blockStep Geometry.bfu s = .next t) : MachineInv t ∧ (Running t → Progress t) := by
  obtain ⟨hinv, hp⟩ := h
  refine ⟨blockStep_keeps_machineInv hinv hb hst, fun ht => ?_⟩
  obtain ⟨-, -, -, hopen⟩ := blockStep_frame hst
  have hrun : Running s := ⟨hb, hopen.symm.trans ht.2⟩
  exact blockStep_keeps_progress hrun (hinv.inFrame hrun) (hp hrun) hst ht

/-- What the host may present keeps the progress of a running decode right. -/
theorem exec_keeps_progress (hi : i.presentable = true) (hinv : MachineInv s) (hp : Running s → Progress s)
    (h : exec i s = .next t) (ht : Running t) : Progress t := by
  cases exec_effect h with
  | silent => exact { hp ht with }
  | startShort => exact Status.noConfusion ht.1
  | startBegun => exact progress_of_start
  | lenWritten v => exact absurd ht (by simpa using not_running_of_host_write (s := s) v s.inp)
  | inWritten a b => exact absurd ht (by simpa using not_running_of_host_write (s := s) s.len (writeIn s.inp a.toNat b))
  | reset => exact Status.noConfusion ht.1
  | stepped hb h => exact (blockStep_keeps_inv_and_progress ⟨hinv, hp⟩ hb h).2 ht
  | decoded h =>
    refine (exec_decode_induction (P := fun u => MachineInv u ∧ (Running u → Progress u)) (fun _ => ?_)
      (fun _ => ⟨hinv, hp⟩) (fun _ _ hu hb huv => blockStep_keeps_inv_and_progress hu hb huv) h).2 ht
    exact ⟨transact_machineInv hinv, fun hrun => absurd hrun.1 (transact_status_ne_busy s)⟩
  | opened hi' => simp [hi] at hi'
  | advanced hi' => obtain rfl | rfl := hi' <;> cases hi
  | wrote hi' => obtain rfl | ⟨r, c, rfl⟩ | ⟨r, c, v, rfl⟩ := hi' <;> cases hi
  | extractShort | extractLocated | mismatched | rowFramed | latched | finished => cases hi

/-- Settles O11: as the invariant, for the block's own step and for a presented operation. -/
theorem stepKeepsProgress : Obligations.StepKeepsProgress := by
  unfold Obligations.StepKeepsProgress
  intro s t hinv hp h ht
  obtain ⟨_, h⟩ | ⟨i, rest, _, hi, h⟩ := step_cases h
  · exact exec_keeps_progress (by decide) hinv hp h ht
  · exact exec_keeps_progress hi (hinv.of_port rest) (fun hrun => { hp hrun with }) h ht

/-! ## Reset and the end of a decode -/

/-- Settles O9: after reset the memories are empty and no decode runs. -/
theorem resetMeetsInvariants : Obligations.ResetMeetsInvariants := by
  unfold Obligations.ResetMeetsInvariants
  exact ⟨.of_idle memory_wf_nil rfl rfl rfl rfl rfl, fun hrun => Status.noConfusion hrun.1⟩

/-- At the end of the frame every group has been passed, so that PLANE holds the whole result (R155). -/
theorem Progress.planes_at_end (hp : Progress s) (hend : s.off.toNat = 6404096) {p r c : Nat} (hp' : p < 3)
    (hr : r < 1944) (hc : c < 2592) :
    readPlane Geometry.bfu s.plane p r c = some (outputWord Geometry.bfu s.inp s.base.toNat p r c) :=
  hp.planes p r c hp' hr hc (hend ▸ keptOffset_packing_lt_end hr hc)

/-- STEP of a BUSY block is its block step (R173). -/
theorem exec_step_of_busy (hb : s.status = .busy) : exec .step s = blockStep Geometry.bfu s := if_pos hb

/-- Settles O12: FINISH leaves the words that right progress has written. -/
theorem finishDeliversResult : Obligations.FinishDeliversResult := by
  unfold Obligations.FinishDeliversResult
  intro s hinv hrun hp hend
  exact ⟨finish s, (exec_step_of_busy hrun.1).trans (blockStep_of_off_eq_end hrun hend), rfl,
    hinv.cause_of_running hrun, fun p r c hp' hr hc => hp.planes_at_end hend hp' hr hc⟩

end Sys2Proof.Machine
end

section
/-! PROOFS. A step of the machine (R20, R172, R173), and the operations of the families that are stated apart: where a
coordinate is emitted (R155), the padding operations (R114 to R116), a lane's words (R140), PLANE_ALLOC (R150), the host's
reads (R178 to R182) and the open outcome (U4, log 10). -/

namespace Sys2Proof.Machine

variable {s t : State}

/-! ## Which operation a step is -/

/-- Settles O3: the tests of R172 at the hardware's offsets. -/
theorem phaseFollowsOffset : Obligations.PhaseFollowsOffset := by
  unfold Obligations.PhaseFollowsOffset
  intro off hoff
  simp only [stepOperation, bfu_frameBytes, bfu_headerBytes]
  split_ifs <;> simp only [true_iff, false_iff] <;> omega

/-- Settles O5: the port comes first. -/
theorem stepRunsPresentedOperation : Obligations.StepRunsPresentedOperation := by
  unfold Obligations.StepRunsPresentedOperation
  intro s i rest hport hdecode
  have hnext : nextOperation s = if i.presentable then .ok (i, { s with port := rest }) else .error .notAHostCommand := by
    unfold nextOperation
    split
    · next hnil => exact absurd hnil hport
    · next b bs hp => rw [← hp, hdecode]
  rw [step, hnext]
  exact ⟨fun hi => by rw [if_pos hi], fun hi => by rw [hi, if_neg Bool.false_ne_true]⟩

/-- Inside its buffer a running block's step completes, and is the operation its position selects (R172, R173). -/
theorem blockStep_is_selected (hrun : Running s) (hoff : s.off.toNat ≤ 6404096)
    (hlen : s.base.toNat + 6404096 ≤ s.len.toNat) :
    ∃ t, blockStep Geometry.bfu s = .next t ∧ exec (stepOperation Geometry.bfu s.off.toNat) s = .next t := by
  by_cases hend : s.off.toNat = 6404096
  · refine ⟨_, blockStep_of_off_eq_end hrun hend, ?_⟩
    rw [stepOperation, if_pos (by simpa using hend)]
    exact exec_finish hrun hend
  · have hbyte : s.base.toNat + s.off.toNat < s.len.toNat := by omega
    have hend' : ¬ s.off.toNat = Geometry.bfu.frameBytes := by simpa using hend
    rw [blockStep, if_neg (by simp [hrun.2]), if_neg hend', withCurrentByte_eq hbyte, stepOperation, if_neg hend',
      bfu_headerBytes]
    by_cases hmarker : s.off.toNat < 4
    · rw [if_pos hmarker, if_pos hmarker]
      exact ⟨_, rfl, exec_markerCheck hrun hmarker hbyte⟩
    · rw [if_neg hmarker, if_neg hmarker]
      by_cases hheader : s.off.toNat < 32768
      · rw [if_pos hheader, if_pos hheader]
        exact ⟨_, rfl, headerSkipAdvancesOnly s hrun (by omega) (by omega)⟩
      · rw [if_neg hheader, if_neg hheader, rowFrame_bfu]
        exact ⟨_, rfl, exec_rowFrame hrun (by omega) (by omega) hbyte⟩

/-- Settles O6: with an empty port the step is the block's. -/
theorem stepRunsSelectedOperation : Obligations.StepRunsSelectedOperation := by
  unfold Obligations.StepRunsSelectedOperation
  intro s hrun hport hoff hlen
  obtain ⟨t, hstep, hexec⟩ := blockStep_is_selected hrun hoff hlen
  rw [step_eq_blockStep hrun.1 hport, hstep, hexec]

/-- STEP outside BUSY (log 19). -/
theorem exec_step_of_not_busy (hb : s.status ≠ .busy) : exec .step s = .next s := if_neg hb

/-- With nothing presented a block that has no step stays where it is (R20, log 19). -/
theorem step_of_not_busy (hb : s.status ≠ .busy) (hport : s.port = []) : step s = .next s :=
  (step_of_port_nil hport).trans (exec_step_of_not_busy hb)

/-- Settles O7: the idle block's move is STEP. -/
theorem idleBlockDoesNothing : Obligations.IdleBlockDoesNothing := by
  unfold Obligations.IdleBlockDoesNothing
  exact fun s => step_of_not_busy

/-- Settles O8: STEP is the block's step while BUSY. -/
theorem stepOperationCompletes : Obligations.StepOperationCompletes := by
  unfold Obligations.StepOperationCompletes
  refine fun s => ⟨exec_step_of_not_busy, fun hrun hoff hlen => ?_⟩
  rw [exec_step_of_busy hrun.1]
  exact blockStep_is_selected hrun hoff hlen

/-! ## Families 40 to 42 -/

/-- GROUP_EMIT is selected at packing bytes of kept rows (R113). -/
theorem position_of_groupEmit {off : Nat} (h : rowOperation Geometry.bfu off = .groupEmit) :
    rowAt Geometry.bfu off < 1944 ∧ groupAt Geometry.bfu off < 648 ∧ laneAt Geometry.bfu off = 4 := by
  obtain ⟨hrow, hcol⟩ := kept_of_rowOperation (.inr h)
  refine ⟨hrow, Nat.div_lt_of_lt_mul hcol, ?_⟩
  rw [rowOperation, if_neg (by simpa using hrow), if_neg (by simpa using hcol)] at h
  split at h
  · cases h
  · rw [laneAt]
    omega

/-- Settles O20: the packing byte of the coordinate's group is the offset. -/
theorem eachCoordinateEmittedOnce : Obligations.EachCoordinateEmittedOnce := by
  unfold Obligations.EachCoordinateEmittedOnce
  refine ⟨fun r c hr hc => ?_, fun off k _ _ hemit hk => ?_⟩
  · have hg : c / 4 < 648 := by omega
    refine ⟨keptOffset Geometry.bfu r (c / 4) 4, ⟨(lt_keptOffset_packing r (c / 4)).le, keptOffset_packing_lt_end hr hc,
      rowOperation_keptOffset hr hg (by decide), rowAt_keptOffset r hg (by decide),
      groupAt_keptOffset r hg (by decide)⟩, fun off' hlow _ hemit hrow hgroup => ?_⟩
    obtain ⟨-, -, hlane⟩ := position_of_groupEmit hemit
    have hpos := off_eq_keptOffset hlow
    rwa [hrow, hgroup, hlane] at hpos
  · obtain ⟨hrow, hgroup, -⟩ := position_of_groupEmit hemit
    exact ⟨hrow, groupColumn_lt hgroup hk⟩

/-- Settles O27: the arithmetic of R114, so that the check at the first data byte passes. -/
theorem framingCheckAlwaysPasses : Obligations.FramingCheckAlwaysPasses := by
  unfold Obligations.FramingCheckAlwaysPasses
  refine ⟨by decide, fun s hrun hoff => ?_⟩
  refine (blockOperation_eq hrun.1 hrun.2 (decide_eq_true hoff)).trans ?_
  rw [if_pos framingOk_bfu]

/-- The row and byte column of an offset given by them (R24). -/
theorem rowAt_bcolAt_of_off {off row bcol : Nat} (hbcol : bcol < 3264) (hoff : off = 32768 + 3264 * row + bcol) :
    rowAt Geometry.bfu off = row ∧ bcolAt Geometry.bfu off = bcol := by
  simp only [rowAt, bcolAt, bfu_headerBytes, bfu_rowStride]
  omega

/-- Settles O29: the map selects ROW_DROP or ROW_TRIM there, and each skips. -/
theorem paddingOperationsSkip : Obligations.PaddingOperationsSkip := by
  unfold Obligations.PaddingOperationsSkip
  intro s row bcol hrun hbcol hoff
  obtain ⟨hrow, hcol⟩ := rowAt_bcolAt_of_off hbcol hoff
  have harea : row ≤ 1951 → inDataArea s = true := fun hle => by
    simp only [inDataArea, bfu_headerBytes, bfu_frameBytes, Bool.and_eq_true, decide_eq_true_eq]
    omega
  refine ⟨fun hpad hle => blockOperation_eq hrun.1 hrun.2 ?_, fun hkept htrim => blockOperation_eq hrun.1 hrun.2 ?_⟩
  · have hop : rowOperation Geometry.bfu s.off.toNat = .rowDrop := by
      rw [rowOperation, hrow, bfu_rowsKept, if_pos hpad]
    simp [harea hle, hop]
  · have hop : rowOperation Geometry.bfu s.off.toNat = .rowTrim := by
      rw [rowOperation, hrow, hcol, bfu_rowsKept, bfu_rowBytesKept, if_neg (by omega), if_pos htrim]
    simp [harea (by omega), hop]

/-- A GROUP_EMIT of a running decode that completes emits the group of a packing byte of a kept row (R131). -/
theorem groupEmit_of_exec (hrun : Running s) (h : exec .groupEmit s = .next t) :
    rowOperation Geometry.bfu s.off.toNat = .groupEmit ∧
      t = emitGroup Geometry.bfu (readIn s.inp (s.base.toNat + s.off.toNat)) s := by
  obtain ⟨_, ⟨ho, _⟩ | ⟨_, hsel, h⟩⟩ := of_blockOperation h
  · simp [hrun.2] at ho
  · obtain ⟨_, h⟩ := of_withCurrentByte h
    simp only [Bool.and_eq_true, beq_iff_eq] at hsel
    exact ⟨hsel.2, (Host.Outcome.next.inj h).symm⟩

/-- The word of lane k of an emitted group (R131, R140). -/
theorem readPlane_emitGroup_lane (pk : Byte) (hrow : rowAt Geometry.bfu s.off.toNat < 1944)
    (hgroup : groupAt Geometry.bfu s.off.toNat < 648) {p k : Nat} (hp : p < 3) (hk : k < 4) :
    readPlane Geometry.bfu (emitGroup Geometry.bfu pk s).plane p (rowAt Geometry.bfu s.off.toNat)
        (4 * groupAt Geometry.bfu s.off.toNat + k)
      = some (if p = (sel (rowAt Geometry.bfu s.off.toNat) (4 * groupAt Geometry.bfu s.off.toNat + k)).index then
          sampleValue (s.held.get k) pk k else 0) := by
  have hg : (4 * groupAt Geometry.bfu s.off.toNat + k) / 4 = groupAt Geometry.bfu s.off.toNat := by omega
  have hlane : (4 * groupAt Geometry.bfu s.off.toNat + k) % 4 = k := by omega
  rw [readPlane_emitGroup pk hrow hgroup hp hrow (groupColumn_lt hgroup hk), if_pos ⟨rfl, hg⟩, hlane]

/-- Settles O36: the words of lane k are made of D[k] and the packing byte. -/
theorem lanesAreIndependent : Obligations.LanesAreIndependent := by
  unfold Obligations.LanesAreIndependent
  intro s t s' t' k p hk hp hs ht hoff hbyte hheld hs' ht'
  obtain ⟨hemit, rfl⟩ := groupEmit_of_exec hs hs'
  obtain ⟨_, rfl⟩ := groupEmit_of_exec ht ht'
  obtain ⟨hrow, hgroup, _⟩ := position_of_groupEmit hemit
  rw [readPlane_emitGroup_lane _ hrow hgroup hp hk, hheld, hbyte, hoff,
    readPlane_emitGroup_lane _ (hoff ▸ hrow) (hoff ▸ hgroup) hp hk]

/-- Settles O38: the words after clearing a coordinate. -/
theorem planeAllocClearsUnselected : Obligations.PlaneAllocClearsUnselected := by
  unfold Obligations.PlaneAllocClearsUnselected
  intro s r c hrun hr hc
  have hexec : exec (.planeAlloc r c) s = .next (setPlane (clearUnselected Geometry.bfu s.plane r c) s) :=
    (blockOperation_eq hrun.1 hrun.2 rfl).trans (if_pos (isCoordinate_bfu_iff.mpr ⟨hr, hc⟩))
  exact ⟨_, hexec, rfl, fun p r' c' hp hr' hc' => readPlane_clearUnselected s.plane hp hr hc hr' hc'⟩

/-! ## The open outcome (U4, log 10) -/

/-- Settles O41: an accepted START and one that traps, FINISH, and RESET. -/
theorem newDecodeIsNotOpen : Obligations.NewDecodeIsNotOpen := by
  unfold Obligations.NewDecodeIsNotOpen
  refine ⟨fun s hb => ?_, fun s hrun hend => ⟨_, exec_finish hrun hend, hrun.2, rfl⟩, fun s => ⟨_, rfl, rfl, rfl⟩⟩
  rcases Nat.lt_or_ge s.len.toNat 6404096 with hlen | hlen
  · exact ⟨_, exec_start_of_short hb hlen, rfl, rfl⟩
  · exact ⟨_, exec_start_of_long hb hlen, rfl, rfl⟩

/-- While BUSY a host write opens the outcome and the planes. -/
theorem breakContract_of_busy (hb : s.status = .busy) :
    breakContract s = { s with outcomeOpen := true, planeOpen := true } := if_pos hb

theorem exec_lenWrite_of_busy (v : LenWord) (hb : s.status = .busy) :
    exec (.lenWrite v) s = .next { s with len := v, outcomeOpen := true, planeOpen := true } := by
  rw [exec, execLenWrite, breakContract_of_busy hb]

theorem exec_inWrite_of_busy (a : LenWord) (b : Byte) (hb : s.status = .busy) :
    exec (.inWrite a b) s
      = .next { s with inp := writeIn s.inp a.toNat b, outcomeOpen := true, planeOpen := true } := by
  rw [exec, execInWrite, breakContract_of_busy hb]

/-- PLANE_READ of a word of the plane space whose value is free (R225, U5). -/
theorem exec_planeRead_free {p r c : Nat} (hfree : s.status = .busy ∨ s.planeOpen = true) (hp : p < 3) (hr : r < 1944)
    (hc : c < 2592) :
    exec (.planeRead p r c) s
      = .next { s with result := .word (Config.freePlaneWord s.draws), draws := s.draws + 1 } := by
  rw [exec, execPlaneRead, if_pos ⟨hp, isCoordinate_bfu_iff.mpr ⟨hr, hc⟩⟩, if_pos hfree, answer]

/-- Settles O47: both ways of a free word. -/
theorem planeReadWhileBusyIsFree : Obligations.PlaneReadWhileBusyIsFree := by
  unfold Obligations.PlaneReadWhileBusyIsFree
  exact fun s p r c hfree hp hr hc => exec_planeRead_free hfree hp hr hc

/-- Settles O44: the two host writes, the open step, and the read of an open plane. -/
theorem hostWriteWhileBusyOpensOutcome : Obligations.HostWriteWhileBusyOpensOutcome := by
  unfold Obligations.HostWriteWhileBusyOpensOutcome
  refine ⟨fun v s hb => exec_lenWrite_of_busy v hb,
    fun a b s hb => ⟨_, exec_inWrite_of_busy a b hb, rfl, ?_, fun x hx => ?_⟩, fun s hb ho => ?_,
    fun s p r c hopen hp hr hc => exec_planeRead_free (.inr hopen) hp hr hc⟩
  · rw [readIn_writeIn, if_pos rfl]
  · rw [readIn_writeIn, if_neg hx]
  · rw [exec_step_of_busy hb, blockStep, if_pos ho, openStep]

/-! ## The host's reads (R178 to R182) -/

/-- Settles O45: the codes of R26 and R27, and the invariant's clause about CAUSE. -/
theorem registerReadsReturnRegisters : Obligations.RegisterReadsReturnRegisters := by
  unfold Obligations.RegisterReadsReturnRegisters
  refine fun s => ⟨rfl, ⟨_, rfl, congrArg statusCode, congrArg statusCode, congrArg statusCode, congrArg statusCode⟩,
    ⟨_, rfl, congrArg causeCode, congrArg causeCode, congrArg causeCode, congrArg causeCode,
      fun hinv ho herr => ?_⟩⟩
  have hnone : s.cause = .none := not_not.mp (mt (hinv.cause ho).mp herr)
  exact congrArg causeCode hnone

section
variable {p r c : Nat} (hp : p < 3) (hr : r < 1944) (hc : c < 2592) (hb : s.status ≠ .busy) (ho : s.planeOpen = false)
include hp hr hc hb ho

/-- PLANE_READ at rest returns the word that is held (R182). -/
theorem exec_planeRead_of_some {v : Sample} (hv : readPlane Geometry.bfu s.plane p r c = some v) :
    exec (.planeRead p r c) s = .next { s with result := .word v } := by
  rw [exec, execPlaneRead, if_pos ⟨hp, isCoordinate_bfu_iff.mpr ⟨hr, hc⟩⟩, if_neg (by simp [hb, ho])]
  simp only [hv, answer]

/-- PLANE_READ at rest stops where no word is held (R34, D25). -/
theorem exec_planeRead_of_none (hv : readPlane Geometry.bfu s.plane p r c = none) :
    exec (.planeRead p r c) s = .fault .planeNoValue := by
  rw [exec, execPlaneRead, if_pos ⟨hp, isCoordinate_bfu_iff.mpr ⟨hr, hc⟩⟩, if_neg (by simp [hb, ho])]
  simp only [hv]

end

/-- Settles O46: the invariant says of DONE that every word is held, and of IDLE that none is. -/
theorem planeReadReturnsWord : Obligations.PlaneReadReturnsWord := by
  unfold Obligations.PlaneReadReturnsWord
  intro s p r c
  refine ⟨fun hp hr hc hb ho => ⟨fun v => exec_planeRead_of_some hp hr hc hb ho,
    exec_planeRead_of_none hp hr hc hb ho⟩, fun hp hr hc hinv hdone ho => ?_, fun hp hr hc hinv hidle ho => ?_,
    fun hout => if_neg fun ⟨hp, hcoord⟩ => hout ⟨hp, isCoordinate_bfu_iff.mp hcoord⟩⟩
  · obtain ⟨v, hv⟩ := Option.isSome_iff_exists.mp (hinv.done ho hdone p r c hp hr hc)
    exact ⟨v, hv, exec_planeRead_of_some hp hr hc (by simp [hdone]) ho hv⟩
  · obtain ⟨hempty, hopen⟩ := hinv.idle ho hidle
    exact exec_planeRead_of_none hp hr hc (by simp [hidle]) hopen (hempty ▸ readPlane_nil _ p r c)

end Sys2Proof.Machine
end

section
/-! PROOFS. The whole decode: its closed form (R171), the sequencer's walk through the frame and that the two agree (R173,
R176), waiting for a running decode, and that a trap writes no plane word (R194, R195). -/

namespace Sys2Proof.Machine

variable {s t u v : State}

/-! ## The closed form (R171) -/

/-- DECODE at rest is the closed form. -/
theorem exec_decode_of_not_busy (hb : s.status ≠ .busy) : exec .decode s = .next (transact Geometry.bfu s) := if_neg hb

/-- Settles O19: equal LEN and IN are equal input. -/
theorem decodeDependsOnBufferOnly : Obligations.DecodeDependsOnBufferOnly := by
  unfold Obligations.DecodeDependsOnBufferOnly
  intro s t hs ht hlen hinp
  refine ⟨_, _, exec_decode_of_not_busy hs, exec_decode_of_not_busy ht, transact_congr ⟨hlen, ?_, ?_⟩⟩
  · exact fun j _ => by rw [hlen, hinp]
  · exact fun r g k _ _ _ => by rw [hlen, hinp]

/-- A word of the result as a number (R135). -/
theorem outputWord_toNat (m : Memory) (base p r c : Nat) :
    (outputWord Geometry.bfu m base p r c).toNat
      = if p = (sel r c).index then
          4 * (readIn m (base + keptOffset Geometry.bfu r (c / 4) (c % 4))).toNat
            + (readIn m (base + keptOffset Geometry.bfu r (c / 4) 4)).toNat / 2 ^ (6 - 2 * (c % 4)) % 4
        else 0 := by
  rw [outputWord_eq, apply_ite BitVec.toNat, sampleValue_toNat, BitVec.ofNat_eq_ofNat, BitVec.toNat_zero]

/-- A decode that succeeds, with D and PLANE named by variables, so that a frame claim does not evaluate them. -/
theorem transact_done_words (hlen : 6404096 ≤ s.len.toNat)
    (hm : firstMismatch s.inp (s.len.toNat - 6404096) = none) :
    ∃ d m, transact Geometry.bfu s
        = { s with status := .done, cause := .none, base := s.len - 6404096#32, off := 6404096#23, held := d, plane := m,
                   outcomeOpen := false, planeOpen := false } ∧
      ∀ p r c, p < 3 → r < 1944 → c < 2592 →
        readPlane Geometry.bfu m p r c = some (outputWord Geometry.bfu s.inp (s.len.toNat - 6404096) p r c) :=
  ⟨_, _, transact_done hlen hm, fun _ _ _ hp hr hc => readPlane_outputPlanes _ _ hp hr hc⟩

/-- Settles O17: the outcomes of the closed form, the first wrong marker byte being the one `off` points to. -/
theorem decodeOutcomes : Obligations.DecodeOutcomes := by
  unfold Obligations.DecodeOutcomes
  intro s hb
  refine ⟨fun hlen => ⟨_, exec_decode_of_not_busy hb, ?_⟩, fun hlen ⟨i, hi, hne⟩ => ?_, fun hlen hmarker => ?_⟩
  · rw [transact_short hlen, raise]
  · cases hm : firstMismatch s.inp (s.len.toNat - 6404096) with
    | none => exact absurd (firstMismatch_eq_none.mp hm i hi) hne
    | some j =>
      obtain ⟨hj, hjne, hbefore⟩ := firstMismatch_eq_some hm
      have hoff : (BitVec.ofNat 23 j).toNat = j := Nat.mod_eq_of_lt (by omega)
      refine ⟨_, (exec_decode_of_not_busy hb).trans (congrArg _ (transact_badMarker hlen hm)), rfl, ?_⟩
      simp only [hoff]
      exact ⟨hj, hjne, hbefore⟩
  · have hm := firstMismatch_eq_none.mpr hmarker
    obtain ⟨d, m, hdone, hwords⟩ := transact_done_words hlen hm
    refine ⟨_, (exec_decode_of_not_busy hb).trans (congrArg _ hdone), rfl, fun p r c hp hr hc => ?_⟩
    refine ⟨_, hwords p r c hp hr hc, ?_⟩
    simp only [outputWord_toNat, keptOffset_eq, Nat.add_assoc]

/-! ## The walk of a running decode -/

/-- D keeps the data bytes of the frame's last group once they are passed: no later byte is a kept one. -/
def LastGroup (s : State) : Prop :=
  ∀ k, k < 4 → keptOffset Geometry.bfu 1943 647 k < s.off.toNat →
    s.held.get k = readIn s.inp (s.base.toNat + keptOffset Geometry.bfu 1943 647 k)

/-- The decode running in `s` has come to `u`: `off`, D and PLANE are all that may differ, what was right has stayed right,
and before the data area neither D nor PLANE has been written (R195). -/
structure DecodeFrom (s u : State) : Prop where
  frame : u = { s with off := u.off, held := u.held, plane := u.plane }
  inFrame : InFrame u
  progress : Progress s → Progress u
  planes : s.plane.wf → u.plane.wf
  last : LastGroup s → LastGroup u
  early : u.off.toNat ≤ 32768 → u.held = s.held ∧ u.plane = s.plane

/-- How the decode running in `s` ends. -/
inductive DecodeEnd (s : State) : State → Prop where
  /-- FINISH at the end of the frame (R175). -/
  | finished {u : State} (h : DecodeFrom s u) (hend : u.off.toNat = 6404096) : DecodeEnd s (finish u)
  /-- The trap of a wrong marker byte (R111). -/
  | trapped {u : State} (h : DecodeFrom s u) (hoff : u.off.toNat < 4) : DecodeEnd s (raise .badMarker u)

theorem DecodeFrom.refl (hframe : InFrame s) : DecodeFrom s s where
  frame := rfl
  inFrame := hframe
  progress := id
  planes := id
  last := id
  early := fun _ => ⟨rfl, rfl⟩

theorem DecodeFrom.running (h : DecodeFrom s u) (hrun : Running s) : Running u := by
  rw [h.frame]
  exact hrun

theorem DecodeFrom.inp_eq (h : DecodeFrom s u) : u.inp = s.inp := by rw [h.frame]

theorem DecodeFrom.base_eq (h : DecodeFrom s u) : u.base = s.base := by rw [h.frame]

theorem DecodeFrom.port_eq (h : DecodeFrom s u) : u.port = s.port := by rw [h.frame]

/-- One more byte of the data area keeps the last group's bytes: a kept byte of its lane is not past it. -/
theorem LastGroup.of_rowByte (h : LastGroup s) (hlow : 32768 ≤ s.off.toNat) (hoff : s.off.toNat ≤ 6404096) {d : Held}
    {m : PlaneMem} (hrow : RowByte s (readIn s.inp (s.base.toNat + s.off.toNat)) d m) :
    LastGroup (advance { s with held := d, plane := m }) := by
  intro k hk hpass
  rw [advance_held, hrow.held k hk]
  obtain hnow | hbefore := passed_of_advance (s := s) hoff hpass
  · rw [if_pos]
    · rw [hnow]; rfl
    · rw [hnow, rowAt_keptOffset 1943 (by decide) (by omega), bcolAt_keptOffset 1943 (by decide) (by omega),
        laneAt_keptOffset 1943 (by decide) (by omega)]
      omega
  · rw [if_neg, h k hk hbefore]
    · rfl
    · rintro ⟨hr, hc, hlane⟩
      have hpos := off_eq_row_bcol hlow
      rw [keptOffset_eq] at hbefore
      rw [laneAt] at hlane
      omega

/-- A step of the block that does not end the decode. -/
theorem DecodeFrom.of_advance (h : DecodeFrom s u) (hne : u.off.toNat ≠ 6404096) {d : Held} {m : PlaneMem}
    (hprogress : Progress u → Progress (advance { u with held := d, plane := m })) (hwf : u.plane.wf → m.wf)
    (hlast : LastGroup u → LastGroup (advance { u with held := d, plane := m }))
    (hearly : u.off.toNat < 32768 → d = u.held ∧ m = u.plane) :
    DecodeFrom s (advance { u with held := d, plane := m }) := by
  obtain ⟨hbase, hoff⟩ := h.inFrame
  have hnext := advance_off_toNat (s := { u with held := d, plane := m }) hoff
  refine ⟨?_, ⟨hbase, ?_⟩, hprogress ∘ h.progress, hwf ∘ h.planes, hlast ∘ h.last, fun hle => ?_⟩
  · rw [h.frame]; rfl
  · simp only at hnext
    omega
  · simp only at hnext
    obtain ⟨rfl, rfl⟩ := hearly (by omega)
    exact h.early (by omega)

/-- What the block's next step makes of a running decode: FINISH, the trap of a wrong marker byte, or one byte more. -/
theorem DecodeFrom.of_blockStep (hrun : Running s) (h : DecodeFrom s u) (hstep : blockStep Geometry.bfu u = .next v) :
    (u.off.toNat = 6404096 ∧ v = finish u) ∨
    (u.off.toNat < 4 ∧ readIn u.inp (u.base.toNat + u.off.toNat) ≠ markerByte u.off.toNat ∧ v = raise .badMarker u) ∨
    ((u.off.toNat < 4 → readIn u.inp (u.base.toNat + u.off.toNat) = markerByte u.off.toNat) ∧
      DecodeFrom s v ∧ v.off.toNat = u.off.toNat + 1) := by
  have hu := h.running hrun
  obtain ⟨-, hoff⟩ := h.inFrame
  have hprogress := fun hp hv => blockStep_keeps_progress hu h.inFrame hp hstep hv
  obtain hend | htrap | ⟨hlt, hmarker, rfl⟩ | ⟨hge, hne, d, m, hrow, rfl⟩ := running_blockStep_cases hu hstep
  · exact .inl hend
  · exact .inr (.inl htrap)
  · refine .inr (.inr ⟨hmarker, ?_, advance_off_toNat hoff⟩)
    refine h.of_advance (by omega) (fun hp => hprogress hp hu) id (fun _ k hk hpass => ?_) fun _ => ⟨rfl, rfl⟩
    have hnext := passed_of_advance (s := u) hoff hpass
    rw [keptOffset_eq] at hnext
    omega
  · refine .inr (.inr ⟨fun _ => by omega, ?_, advance_off_toNat hoff⟩)
    exact h.of_advance hne (fun hp => hprogress hp hu) hrow.wf (fun hl => hl.of_rowByte hge hoff hrow) fun _ => by omega

/-! ## Where a decode ends -/

/-- A decode that has ended is done with the CAUSE it had, or has trapped at a wrong marker byte with PLANE as it was. -/
theorem DecodeEnd.outcome (h : DecodeEnd s t) :
    (t.status = .done ∧ t.cause = s.cause) ∨ (t.status = .error ∧ t.cause = .badMarker ∧ t.plane = s.plane) := by
  cases h with
  | finished hu => exact .inl ⟨rfl, by rw [finish_cause, hu.frame]⟩
  | trapped hu hoff => exact .inr ⟨rfl, rfl, (hu.early (by omega)).2⟩

theorem DecodeEnd.not_busy (h : DecodeEnd s t) : t.status ≠ .busy := by
  obtain ⟨e, _⟩ | ⟨e, _⟩ := h.outcome
  · simp [e]
  · simp [e]

theorem DecodeEnd.frame (h : DecodeEnd s t) : t.port = s.port ∧ t.len = s.len ∧ t.inp = s.inp ∧ t.base = s.base := by
  cases h with
  | finished hu => rw [hu.frame]; exact ⟨rfl, rfl, rfl, rfl⟩
  | trapped hu => rw [hu.frame]; exact ⟨rfl, rfl, rfl, rfl⟩

/-- A decode that made right progress and is done has delivered the result. -/
theorem DecodeEnd.words (h : DecodeEnd s t) (hp : Progress s) (hdone : t.status = .done) {p r c : Nat} (hp' : p < 3)
    (hr : r < 1944) (hc : c < 2592) :
    readPlane Geometry.bfu t.plane p r c = some (outputWord Geometry.bfu s.inp s.base.toNat p r c) := by
  cases h with
  | finished hu hend =>
    rw [finish_plane, (hu.progress hp).planes_at_end hend hp' hr hc, hu.inp_eq, hu.base_eq]
  | trapped => exact Status.noConfusion hdone

/-! ## Waiting for a running decode (log 17) -/

theorem awaitEnd_succ {G : Geometry} (hb : s.status = .busy) (h : blockStep G s = .next t) (n : Nat) :
    awaitEnd G (n + 1) s = awaitEnd G n t := by
  rw [awaitEnd, if_pos hb, h]

theorem awaitEnd_of_not_busy {G : Geometry} (hb : s.status ≠ .busy) (n : Nat) : awaitEnd G n s = .next s := by
  cases n with
  | zero => rfl
  | succ n => rw [awaitEnd, if_neg hb]

/-- The machine's step of a BUSY block with nothing presented, whatever the port held. -/
theorem step_without_port (hb : s.status = .busy) (h : blockStep Geometry.bfu s = .next t) :
    step { s with port := [] } = .next { t with port := [] } :=
  (step_eq_blockStep (s := { s with port := [] }) hb rfl).trans (blockStep_port h [])

/-- Waiting at least as many steps as are left ends where that many steps of the machine, with nothing presented, end. -/
theorem DecodeFrom.await (hrun : Running s) (k : Nat) (h : DecodeFrom s u) (hk : u.off.toNat + k = 6404097) :
    ∃ n v, n ≤ k ∧ DecodeEnd s v ∧ (∀ m, k ≤ m → awaitEnd Geometry.bfu m u = .next v) ∧
      run n { u with port := [] } = .next { v with port := [] } := by
  induction k generalizing u with
  | zero =>
    obtain ⟨-, hoff⟩ := h.inFrame
    omega
  | succ k ih =>
    have hu := h.running hrun
    obtain ⟨v, hv⟩ := blockStep_completes hu h.inFrame
    have hstep := step_without_port hu.1 hv
    have hawait : ∀ m, k + 1 ≤ m → ∃ m', k ≤ m' ∧ awaitEnd Geometry.bfu m u = awaitEnd Geometry.bfu m' v :=
      fun m hm => ⟨m - 1, by omega, by rw [← awaitEnd_succ hu.1 hv, Nat.sub_add_cancel (by omega)]⟩
    have hends : DecodeEnd s v → ∃ n w, n ≤ k + 1 ∧ DecodeEnd s w ∧
        (∀ m, k + 1 ≤ m → awaitEnd Geometry.bfu m u = .next w) ∧
        run n { u with port := [] } = .next { w with port := [] } := fun hend => by
      refine ⟨1, v, by omega, hend, fun m hm => ?_, run_succ_of_step hstep 0⟩
      obtain ⟨m', -, e⟩ := hawait m hm
      exact e.trans (awaitEnd_of_not_busy hend.not_busy m')
    obtain ⟨hend, rfl⟩ | ⟨hoff, _, rfl⟩ | ⟨_, hnext, hoff⟩ := h.of_blockStep hrun hv
    · exact hends (.finished h hend)
    · exact hends (.trapped h hoff)
    · obtain ⟨n, w, hn, hend, hwait, hw⟩ := ih hnext (by omega)
      refine ⟨n + 1, w, by omega, hend, fun m hm => ?_, (run_succ_of_step hstep n).trans hw⟩
      obtain ⟨m', hm', e⟩ := hawait m hm
      exact e.trans (hwait m' hm')

/-- Settles O15: the wait's bound is larger than the steps that are left. -/
theorem decodeWhileBusyWaits : Obligations.DecodeWhileBusyWaits := by
  unfold Obligations.DecodeWhileBusyWaits
  intro s hinv hrun
  obtain ⟨-, hoff⟩ := hinv.inFrame hrun
  obtain ⟨n, t, hn, hend, hwait, hrunn⟩ :=
    (DecodeFrom.refl (hinv.inFrame hrun)).await hrun (6404097 - s.off.toNat) (by omega)
  have hexec : exec .decode s = .next t :=
    (show exec .decode s = awaitEnd Geometry.bfu waitBound s from if_pos hrun.1).trans
      (hwait waitBound (by rw [waitBound]; omega))
  obtain ⟨hport, hlen, hinp, hbase⟩ := hend.frame
  have houtcome := hend.outcome
  rw [hinv.cause_of_running hrun] at houtcome
  refine ⟨n, t, by omega, hexec, hrunn, hport, hlen, hinp, hbase, ?_, fun hp hdone p r c hp' hr hc =>
    hend.words hp hdone hp' hr hc, fun herr => ?_⟩
  · exact houtcome.imp_right fun ⟨he, hc, _⟩ => ⟨he, hc⟩
  · obtain ⟨hd, _⟩ | ⟨_, _, hplane⟩ := houtcome
    · simp [hd] at herr
    · exact hplane

/-! ## Traps (R194, R195) -/

theorem run_of_not_busy (hb : s.status ≠ .busy) (hport : s.port = []) (n : Nat) : run n s = .next s := by
  induction n with
  | zero => rfl
  | succ n ih => rw [run_succ_of_step (step_of_not_busy hb hport), ih]

/-- What every step keeps, running keeps. -/
theorem run_induction {P : State → Prop} (hstep : ∀ s t, P s → step s = .next t → P t) :
    ∀ (n : Nat) (s t : State), P s → run n s = .next t → P t
  | 0, s, t, hs, h => by
    cases h
    exact hs
  | n + 1, s, t, hs, h => by
    rw [run] at h
    split at h
    · next u hu => exact run_induction hstep n u t (hstep s u hs hu) h
    · cases h
    · cases h

/-- With nothing presented a decode is always under way or ended. -/
theorem run_decodeFrom (hrun : Running s) (hframe : InFrame s) (hport : s.port = []) {n : Nat}
    (h : run n s = .next u) : DecodeFrom s u ∨ DecodeEnd s u := by
  refine run_induction (P := fun u => DecodeFrom s u ∨ DecodeEnd s u) (fun u v hu huv => ?_) n s u
    (.inl (.refl hframe)) h
  rcases hu with hu | hu
  · rw [step_eq_blockStep (hu.running hrun).1 (hu.port_eq.trans hport)] at huv
    obtain ⟨hend, rfl⟩ | ⟨hoff, _, rfl⟩ | ⟨_, hv, _⟩ := hu.of_blockStep hrun huv
    · exact .inr (.finished hu hend)
    · exact .inr (.trapped hu hoff)
    · exact .inl hv
  · obtain ⟨hport', -⟩ := hu.frame
    rw [step_of_not_busy hu.not_busy (hport'.trans hport)] at huv
    cases huv
    exact .inr hu

/-- The first packing byte is at 32772 (R195). -/
theorem first_groupEmit {off : Nat} (hlow : 32768 ≤ off) (h : rowOperation Geometry.bfu off = .groupEmit) :
    32772 ≤ off := by
  obtain ⟨-, -, hlane⟩ := position_of_groupEmit h
  have hpos := off_eq_keptOffset hlow
  rw [hlane, keptOffset_eq] at hpos
  omega

/-- The block's step that traps is MARKER_CHECK of a wrong byte, and changes STATUS and CAUSE only (R194). -/
theorem blockStep_trap (hrun : Running s) (h : blockStep Geometry.bfu s = .next t) (herr : t.status = .error) :
    s.off.toNat < 4 ∧ readIn s.inp (s.base.toNat + s.off.toNat) ≠ markerByte s.off.toNat ∧ t = raise .badMarker s := by
  obtain ⟨_, rfl⟩ | htrap | ⟨_, _, rfl⟩ | ⟨_, _, d, m, _, rfl⟩ := running_blockStep_cases hrun h
  · exact Status.noConfusion herr
  · exact htrap
  · exact Status.noConfusion (hrun.1.symm.trans herr)
  · exact Status.noConfusion (hrun.1.symm.trans herr)

/-- START that traps found a short buffer (R110, R194). -/
theorem exec_start_trap (h : exec .start s = .next t) (herr : t.status = .error) :
    s.status ≠ .busy ∧ s.len.toNat < 6404096 ∧
      t = { s with status := .error, cause := .shortBuffer, outcomeOpen := false } := by
  obtain ⟨hb, rfl⟩ | hshort | ⟨_, _, rfl⟩ := execStart_cases h
  · exact Status.noConfusion (hb.symm.trans herr)
  · exact hshort
  · exact Status.noConfusion herr

/-- After START at rest and any number of steps with nothing presented, a decode in ERROR has PLANE as it was (R195). -/
theorem plane_of_run_error (hb : s.status ≠ .busy) (hport : s.port = []) (hstart : exec .start s = .next t) {n : Nat}
    (h : run n t = .next u) (herr : u.status = .error) : u.plane = s.plane := by
  obtain ⟨hbusy, _⟩ | ⟨_, _, rfl⟩ | ⟨_, hlen, rfl⟩ := execStart_cases hstart
  · exact absurd hbusy hb
  · have hidle := run_of_not_busy (s := { s with status := .error, cause := .shortBuffer, outcomeOpen := false })
      Status.noConfusion hport n
    cases hidle.symm.trans h
    rfl
  · obtain hu | hu := run_decodeFrom ⟨rfl, rfl⟩ (inFrame_of_start hlen) hport h
    · exact Status.noConfusion ((hu.running ⟨rfl, rfl⟩).1.symm.trans herr)
    · obtain ⟨hdone, _⟩ | ⟨_, _, hplane⟩ := hu.outcome
      · exact Status.noConfusion (hdone.symm.trans herr)
      · exact hplane

/-- Settles O16: the two traps, the first offset at which PLANE is written, and a whole decode that traps. -/
theorem raiseIsPreciseAndWritesNoPlane : Obligations.RaiseIsPreciseAndWritesNoPlane := by
  unfold Obligations.RaiseIsPreciseAndWritesNoPlane
  refine ⟨fun s t _ hrun h herr => ?_, fun s t h herr => ?_, fun off => first_groupEmit, fun s t hrun hoff h => ?_,
    fun s t u n hb hport hstart h herr => plane_of_run_error hb hport hstart h herr⟩
  · rw [exec_step_of_busy hrun.1] at h
    obtain ⟨hoff, hne, rfl⟩ := blockStep_trap hrun h herr
    exact ⟨by omega, rfl, hne, exec_step_of_not_busy Status.noConfusion⟩
  · obtain ⟨hb, hlen, rfl⟩ := exec_start_trap h herr
    exact ⟨hb, hlen, rfl, exec_step_of_not_busy Status.noConfusion⟩
  · rw [exec_step_of_busy hrun.1] at h
    exact blockStep_keeps_plane h hoff

/-! ## The sequencer and the closed form agree (R176) -/

theorem run_succ_of_run {n : Nat} (h : run n s = .next t) : run (n + 1) s = step t := by
  induction n generalizing s with
  | zero =>
    cases h
    rw [run]
    cases step t <;> rfl
  | succ n ih =>
    obtain ⟨u, hu⟩ : ∃ u, step s = .next u := by
      rw [run] at h
      split at h
      · exact ⟨_, ‹_›⟩
      · cases h
      · cases h
    rw [run_succ_of_step hu] at h ⊢
    exact ih h

/-- A decode that begins at offset 0 is at offset n after n steps, as long as the marker bytes are right. -/
theorem run_of_right_marker (hrun : Running s) (hframe : InFrame s) (hport : s.port = []) (hzero : s.off.toNat = 0)
    {n : Nat} (hn : n ≤ 6404096)
    (hmarker : ∀ j, j < 4 → j < n → readIn s.inp (s.base.toNat + j) = markerByte j) :
    ∃ u, run n s = .next u ∧ DecodeFrom s u ∧ u.off.toNat = n := by
  induction n with
  | zero => exact ⟨s, rfl, .refl hframe, hzero⟩
  | succ n ih =>
    obtain ⟨u, hu, hfrom, hoff⟩ := ih (by omega) fun j hj hlt => hmarker j hj (by omega)
    obtain ⟨v, hv⟩ := blockStep_completes (hfrom.running hrun) hfrom.inFrame
    have hstep := step_eq_blockStep (hfrom.running hrun).1 (hfrom.port_eq.trans hport)
    obtain ⟨hend, _⟩ | ⟨h4, hne, _⟩ | ⟨_, hnext, hoff'⟩ := hfrom.of_blockStep hrun hv
    · omega
    · rw [hoff, hfrom.inp_eq, hfrom.base_eq] at hne
      exact absurd (hmarker n (by omega) (by omega)) hne
    · exact ⟨v, (run_succ_of_run hu).trans (hstep.trans hv), hnext, by omega⟩

theorem Held.ext_get {d e : Held} (h : ∀ k, k < 4 → d.get k = e.get k) : d = e := by
  obtain ⟨d0, d1, d2, d3⟩ := d
  obtain ⟨e0, e1, e2, e3⟩ := e
  rw [Held.mk.injEq]
  exact ⟨h 0 (by decide), h 1 (by decide), h 2 (by decide), h 3 (by decide)⟩

theorem lastHeld_get (m : Memory) (base : Nat) {k : Nat} (hk : k < 4) :
    (lastHeld Geometry.bfu m base).get k = readIn m (base + keptOffset Geometry.bfu 1943 647 k) := by
  obtain rfl | rfl | rfl | rfl : k = 0 ∨ k = 1 ∨ k = 2 ∨ k = 3 := by omega
  all_goals simp only [lastHeld, Held.get, bfu_rowsKept, bfu_groupsPerRow, Nat.reduceSub]

theorem enterBusy_base_toNat (hlen : 6404096 ≤ s.len.toNat) :
    (enterBusy (latchBase Geometry.bfu s)).base.toNat = s.len.toNat - 6404096 := latchBase_base_toNat hlen

section
variable (hlen : 6404096 ≤ s.len.toNat) (h : DecodeFrom (enterBusy (latchBase Geometry.bfu s)) u)
include hlen h

/-- A wrong marker byte ends the walk in the closed form's BAD_MARKER: before the data area D and PLANE are as they were. -/
theorem raise_eq_transact {j : Nat} (hm : firstMismatch s.inp (s.len.toNat - 6404096) = some j)
    (hoff : u.off.toNat = j) : raise .badMarker u = transact Geometry.bfu s := by
  obtain ⟨hj, _, _⟩ := firstMismatch_eq_some hm
  obtain ⟨hheld, hplane⟩ := h.early (by omega)
  have hoff' : u.off = BitVec.ofNat 23 j := by rw [← hoff, BitVec.ofNat_toNat, BitVec.setWidth_eq]
  rw [transact_badMarker hlen hm, h.frame, hheld, hplane, hoff']
  rfl

/-- At the end of the frame the walk has the closed form's D, the last group's bytes, and its PLANE, every word of the
result. -/
theorem finish_eq_transact (hwf : s.plane.wf) (hm : firstMismatch s.inp (s.len.toNat - 6404096) = none)
    (hend : u.off.toNat = 6404096) : finish u = transact Geometry.bfu s := by
  have hinp : u.inp = s.inp := h.inp_eq
  have hbase : u.base.toNat = s.len.toNat - 6404096 := by rw [h.base_eq, enterBusy_base_toNat hlen]
  have hlast : LastGroup u := h.last fun _ _ hpass => absurd hpass (Nat.not_lt_zero _)
  have hheld : u.held = lastHeld Geometry.bfu s.inp (s.len.toNat - 6404096) := Held.ext_get fun k hk => by
    rw [hlast k hk (by rw [hend, keptOffset_eq]; omega), lastHeld_get _ _ hk, hinp, hbase]
  have hplane : u.plane = outputPlanes Geometry.bfu s.inp (s.len.toNat - 6404096) :=
    planeMem_ext (h.planes hwf) (outputPlanes_wf _ _) fun p r c hp hr hc => by
      rw [(h.progress progress_of_start).planes_at_end hend hp hr hc, readPlane_outputPlanes _ _ hp hr hc, hinp, hbase]
  have hoff : u.off = 6404096#23 := by rw [← BitVec.setWidth_eq u.off, ← BitVec.ofNat_toNat, hend]
  rw [transact_done hlen hm, ← hheld, ← hplane, h.frame, hoff]
  rfl

end

/-- When the step after k right ones gives the closed form, the sequencer agrees with it in k + 1 steps. -/
theorem sequencer_agrees (hb : s.status ≠ .busy) (hport : s.port = []) (hlen : 6404096 ≤ s.len.toNat) {k : Nat}
    (hk : k ≤ 6404096) (hsteps : decodeSteps s = k + 1)
    (hmarker : ∀ j, j < 4 → j < k → readIn s.inp (s.len.toNat - 6404096 + j) = markerByte j)
    (hlast : ∀ u, DecodeFrom (enterBusy (latchBase Geometry.bfu s)) u → u.off.toNat = k →
      blockStep Geometry.bfu u = .next (transact Geometry.bfu s)) :
    exec .decode s = run (decodeSteps s) (enterBusy (latchBase Geometry.bfu s)) ∧
    (∃ u, run (decodeSteps s) (enterBusy (latchBase Geometry.bfu s)) = .next u ∧ u.status ≠ .busy) ∧
    (∀ n, n < decodeSteps s → ∃ u, run n (enterBusy (latchBase Geometry.bfu s)) = .next u ∧ u.status = .busy) := by
  have hrun : Running (enterBusy (latchBase Geometry.bfu s)) := ⟨rfl, rfl⟩
  have hwalk : ∀ n, n ≤ k → ∃ u, run n (enterBusy (latchBase Geometry.bfu s)) = .next u ∧
      DecodeFrom (enterBusy (latchBase Geometry.bfu s)) u ∧ u.off.toNat = n := fun n hn =>
    run_of_right_marker hrun (inFrame_of_start hlen) hport (by simp) (by omega) fun j hj hlt => by
      rw [enterBusy_base_toNat hlen]
      exact hmarker j hj (by omega)
  obtain ⟨u, hu, hfrom, hoff⟩ := hwalk k (Nat.le_refl k)
  have hend : run (k + 1) (enterBusy (latchBase Geometry.bfu s)) = .next (transact Geometry.bfu s) :=
    (run_succ_of_run hu).trans
      ((step_eq_blockStep (hfrom.running hrun).1 (hfrom.port_eq.trans hport)).trans (hlast u hfrom hoff))
  rw [exec_decode_of_not_busy hb, hsteps]
  refine ⟨hend.symm, ⟨_, hend, transact_status_ne_busy s⟩, fun n hn => ?_⟩
  obtain ⟨v, hv, hvfrom, _⟩ := hwalk n (by omega)
  exact ⟨v, hv, (hvfrom.running hrun).1⟩

/-- Settles O13: a short buffer takes no step; otherwise the walk from offset 0 to the first wrong marker byte or to the end
of the frame. -/
theorem sequencerAgreesWithDecode : Obligations.SequencerAgreesWithDecode := by
  unfold Obligations.SequencerAgreesWithDecode
  intro s t hb hwf hport hstart
  rcases Nat.lt_or_ge s.len.toNat 6404096 with hlen | hlen
  · cases (exec_start_of_short hb hlen).symm.trans hstart
    have hsteps : decodeSteps s = 0 := if_pos (isShort_bfu_iff.mpr hlen)
    rw [hsteps, exec_decode_of_not_busy hb, transact_short hlen]
    exact ⟨rfl, ⟨_, rfl, Status.noConfusion⟩, fun n hn => absurd hn (Nat.not_lt_zero n)⟩
  · cases (exec_start_of_long hb hlen).symm.trans hstart
    have hshort : ¬ isShort Geometry.bfu s = true := mt isShort_bfu_iff.mp (Nat.not_lt.mpr hlen)
    cases hm : firstMismatch s.inp (s.len.toNat - 6404096) with
    | some j =>
      obtain ⟨hj, hne, hbefore⟩ := firstMismatch_eq_some hm
      refine sequencer_agrees hb hport hlen (k := j) (by omega) ?_ (fun i _ hi => hbefore i hi) fun u hu hoff => ?_
      · rw [decodeSteps, if_neg hshort, latchBase_base_toNat hlen, hm]
      · obtain ⟨v, hv⟩ := blockStep_completes (hu.running ⟨rfl, rfl⟩) hu.inFrame
        rw [hv, ← raise_eq_transact hlen hu hm hoff]
        obtain ⟨hend, _⟩ | ⟨_, _, rfl⟩ | ⟨hright, _⟩ := hu.of_blockStep ⟨rfl, rfl⟩ hv
        · omega
        · rfl
        · rw [hoff, hu.inp_eq, hu.base_eq, enterBusy_base_toNat hlen] at hright
          exact absurd (hright hj) hne
    | none =>
      refine sequencer_agrees hb hport hlen (k := 6404096) (Nat.le_refl _) ?_
        (fun i hi _ => firstMismatch_eq_none.mp hm i hi) fun u hu hend => ?_
      · rw [decodeSteps, if_neg hshort, latchBase_base_toNat hlen, hm]
      · rw [blockStep_of_off_eq_end (hu.running ⟨rfl, rfl⟩) hend, finish_eq_transact hlen hu hwf hm hend]

end Sys2Proof.Machine
end
